-- ==== Sys2Proof/Word.lean ====
section
/-! DEFINITION. Word: the plain data widths the post's frames, records and pins are made of. -/

namespace Sys2Proof

/-- One byte of a frame, record or message (spec/12_frame_and_record_layouts.md). -/
abbrev Byte := BitVec 8

/-- A ride token's ID, 64 bits (R1, R17). -/
abbrev TokenId := BitVec 64

/-- A stamp: an unsigned 32-bit count of site seconds (00_scope.md, Conventions; R11). -/
abbrev Stamp := BitVec 32

/-- A station address, 0 to 31 (00_scope.md, Conventions). -/
abbrev Addr := BitVec 5

/-- A bicycle's identity as its tag carries it (R112, R184). -/
abbrev BikeId := BitVec 32

/-- A bicycle's class, 0 to 3 (R112, R113). -/
abbrev BikeClass := BitVec 2

/-- A bay number, 0 to 3 (00_scope.md, Conventions). -/
abbrev Bay := Fin 4

end Sys2Proof
end

