-- ==== Sys2Proof/Config.lean ====
section
/-! DEFINITION. Config: the quantities the part fixes (00_scope.md, Principal Quantities) and the one value the manual
leaves open, the keyed code of R8. -/

namespace Sys2Proof.Config

/-- FREE VALUE (log 1). The keyed code of R8, "a fixed function of the 128-bit key and of bytes 0 to 20 of the token
record as received"; the manual does not describe it, so nothing here says what it computes. -/
opaque keyedCode (siteKey : BitVec 128) (fields : BitVec 168) : BitVec 64

/-- Places of the Claim Table (R17). -/
abbrev tablePlaces : Nat := 256

/-- Capacity of the protocol transmit queue (R47). -/
abbrev protocolCapacity : Nat := 12

/-- Capacity of the service transmit queue (R47). -/
abbrev serviceCapacity : Nat := 4

/-- The veto count at which a further veto drops the frame (R44). -/
abbrev lastVetoCount : Nat := 7

/-- Records the objection set holds (R57, R68). -/
abbrev objectionCap : Nat := 5

/-- Entries one DUMP carries at most (R84). -/
abbrev dumpEntries : Nat := 4

/-- The intake timer, in ms (R94). -/
abbrev intakeMs : Nat := 250

/-- The second interval, in ms (R11). -/
abbrev secondMs : Nat := 1000

/-- Answers to second presentations the tap transmit list holds (R93). -/
abbrev secondAnswers : Nat := 3

/-- Bike-tag read attempts (R118). -/
abbrev tagAttempts : Nat := 3

/-- The home seek limit, in bolt steps (R138). -/
abbrev homeSeek : Nat := 96

/-- The limit of the calibration opening (R117). -/
abbrev openingLimit : Nat := 255

/-- Slots of the Rental Record Store (R147). -/
abbrev storeSlots : Nat := 1024

/-- Records a bay's pending list holds (R147, R119). -/
abbrev pendingCap : Nat := 2

/-- Entries of the Attention Queue (R160). -/
abbrev attentionCap : Nat := 16

/-- The greatest repeat count (R160). -/
abbrev repeatMax : Nat := 255

/-- Records of the action delay list (R170). -/
abbrev delayCap : Nat := 4

/-- Bytes of the configuration record (R186). -/
abbrev recordBytes : Nat := 438

/-- The greatest stamp (R12, R24). -/
abbrev stampMax : Nat := 4294967295

end Sys2Proof.Config
end

