-- ==== Sys2Proof/Syntax.lean ====
section
/-! DEFINITION. Syntax: the commands the post takes, one constructor for each row of spec/opcode_table.json, with what
each brings with it. -/

namespace Sys2Proof

/-- A frame's destination (R51): ONE(a), SPAN(b, l) or ALL. The fourth form code is no destination: it breaks the
envelope (R181), so such a frame is damaged and arrives as a vetoed frame. -/
inductive Destination where
  | one (address : Addr)
  | span (base limit : Addr)
  | all
  deriving DecidableEq, Repr

/-- A frame received undamaged and unvetoed from another station, as read from the line (R40, R181): the rank and source
of its arbitration field, its destination and its payload bytes. Its kind code is given by the command's name. -/
structure RowFrame where
  rank : BitVec 3
  source : Addr
  dest : Destination
  payload : List Byte
  deriving DecidableEq, Repr

/-- The four kinds a post discards (R54, last row of its table). -/
inductive ServiceKind where
  | logReady
  | logData
  | statusReply
  | notice
  deriving DecidableEq, Repr

/-- A frame whose veto slot was driven (R40, R44): this post's own, with whether it read back a level it did not drive
(R39); or another station's, as the levels read from its start bit to the last bit before the veto slot, `true` for
idle. -/
inductive VetoedFrame where
  | own (readback : Bool)
  | other (levels : List Bool)
  deriving DecidableEq, Repr

/-- The commands. Each constructor is the row of spec/opcode_table.json its docstring names. -/
inductive Instr where
  /-- POWER_ON (R173): power-on with the strap pins at this level. -/
  | powerOn (strap : Addr)
  /-- RESET_PIN (R173): release of the RESET pin with the strap pins at this level. -/
  | resetPin (strap : Addr)
  /-- END_OF_START_UP (R174): what the configuration memory delivered, `none` when it did not answer. -/
  | endOfStartUp (memory : Option (List Byte))
  /-- SEND_START (R43). -/
  | sendStart
  /-- ARBITRATION_LOST (R38). -/
  | arbitrationLost
  /-- FRAME_VETOED (R44). -/
  | frameVetoed (frame : VetoedFrame)
  /-- FRAME_CUT_OFF (R41). -/
  | frameCutOff
  /-- CLAIM_ECHO (R62). -/
  | claimEcho
  /-- OBJECT_ECHO (R69). -/
  | objectEcho
  /-- LAPSE_ECHO (R65). -/
  | lapseEcho
  /-- JOIN_ECHO (R80). -/
  | joinEcho
  /-- DUMP_ECHO (R85). -/
  | dumpEcho
  /-- DUMP_END_ECHO (R86). -/
  | dumpEndEcho
  /-- LOG_READY_ECHO (R150). -/
  | logReadyEcho
  /-- LOG_DATA_ECHO (R156). -/
  | logDataEcho
  /-- STATUS_REPLY_ECHO (R167). -/
  | statusReplyEcho
  /-- NOTICE_ECHO (R164). -/
  | noticeEcho
  /-- CLAIM (R66). -/
  | claim (frame : RowFrame)
  /-- OBJECT (R70). -/
  | object (frame : RowFrame)
  /-- LAPSE (R72). -/
  | lapse (frame : RowFrame)
  /-- REVOKE (R73). -/
  | revoke (frame : RowFrame)
  /-- BEACON (R13). -/
  | beacon (frame : RowFrame)
  /-- JOIN (R81). -/
  | join (frame : RowFrame)
  /-- DUMP (R88). -/
  | dump (frame : RowFrame)
  /-- DUMP_END (R90). -/
  | dumpEnd (frame : RowFrame)
  /-- LOG_FETCH (R155). -/
  | logFetch (frame : RowFrame)
  /-- LOG_CLEAR (R157). -/
  | logClear (frame : RowFrame)
  /-- STATUS_QUERY (R166). -/
  | statusQuery (frame : RowFrame)
  /-- SERVICE_FRAME_DISCARDED (R54). -/
  | serviceFrameDiscarded (kind : ServiceKind) (frame : RowFrame)
  /-- HOLD (R169): an ACTION frame with code 1; its payload here is what follows the code. -/
  | hold (frame : RowFrame)
  /-- RESUME (R169): ACTION code 2. -/
  | resume (frame : RowFrame)
  /-- MAINTAIN_ENTER (R169): ACTION code 3. -/
  | maintainEnter (frame : RowFrame)
  /-- MAINTAIN_EXIT (R169): ACTION code 4. -/
  | maintainExit (frame : RowFrame)
  /-- HUSH (R165): ACTION code 5. -/
  | hush (frame : RowFrame)
  /-- UNHUSH (R165): ACTION code 6. -/
  | unhush (frame : RowFrame)
  /-- FAULT_CLEAR (R170): ACTION code 7. -/
  | faultClear (frame : RowFrame)
  /-- SERVICE_OPEN (R170): ACTION code 8. -/
  | serviceOpen (frame : RowFrame)
  /-- SERVICE_CLOSE (R170): ACTION code 9. -/
  | serviceClose (frame : RowFrame)
  /-- RELATCH_OPEN (R170): ACTION code 10. -/
  | relatchOpen (frame : RowFrame)
  /-- PATROL_NOW (R170): ACTION code 11. -/
  | patrolNow (frame : RowFrame)
  /-- RESTART (R170): ACTION code 12. -/
  | restart (frame : RowFrame)
  /-- ACTION_DELAY_EXPIRY (R171). -/
  | actionDelayExpiry
  /-- SECOND_INTERVAL_EXPIRY (R12). -/
  | secondIntervalExpiry
  /-- BEACON_LOSS_EXPIRY (R14). -/
  | beaconLossExpiry
  /-- SETTLE_EXPIRY (R63). -/
  | settleExpiry
  /-- JOIN_AT_FIRST_IDLE_GAP (R79). -/
  | joinAtFirstIdleGap
  /-- JOIN_WINDOW_EXPIRY (R91). -/
  | joinWindowExpiry
  /-- DUMP_STAGGER_EXPIRY (R83). -/
  | dumpStaggerExpiry
  /-- START_MARKER (R94). -/
  | startMarker
  /-- WRONG_LENGTH_BYTE (R94): the length byte received. -/
  | wrongLengthByte (length : Byte)
  /-- INTAKE_TIMER_EXPIRY (R94). -/
  | intakeTimerExpiry
  /-- PRESENT_FULLY_ARRIVED (R97): the 31 bytes after the length byte, which are the type byte, the token record and the
  link check byte (R183). -/
  | presentFullyArrived (bytes : List Byte)
  /-- TOKEN_CHECK_COMPLETION (R9). -/
  | tokenCheckCompletion
  /-- VERDICT_SENT (R109). -/
  | verdictSent
  /-- BAY_LIGHT_SENT (R93). -/
  | bayLightSent
  /-- PRESENCE_RISING (R112). -/
  | presenceRising (bay : Bay)
  /-- PRESENCE_FALLING (R125). -/
  | presenceFalling (bay : Bay)
  /-- SEAT_RISING (R119). -/
  | seatRising (bay : Bay)
  /-- SEAT_FALLING (R120). -/
  | seatFalling (bay : Bay)
  /-- HOME_RISING (R112). -/
  | homeRising (bay : Bay)
  /-- HOME_FALLING (R121). -/
  | homeFalling (bay : Bay)
  /-- CLEAR_RISING (R112). -/
  | clearRising (bay : Bay)
  /-- CLEAR_FALLING (R112). -/
  | clearFalling (bay : Bay)
  /-- DRIVER_FAULT_RISING (R121). -/
  | driverFaultRising (bay : Bay)
  /-- DRIVER_FAULT_FALLING (R112). -/
  | driverFaultFalling (bay : Bay)
  /-- COLD_INPUT_CHANGE (R115): the level the COLD input changed to, `true` for asserted. -/
  | coldInputChange (asserted : Bool)
  /-- TAKE_TIMER_EXPIRY (R126). -/
  | takeTimerExpiry (bay : Bay)
  /-- PATROL_TIMER_EXPIRY (R122). -/
  | patrolTimerExpiry
  /-- TAG_READ_ATTEMPT_COMPLETION (R118): the bytes the tag answered, six when it answered whole (R184). -/
  | tagReadAttemptCompletion (bay : Bay) (answer : List Byte)
  /-- FAULT_RESET_PULSE_END (R140). -/
  | faultResetPulseEnd
  /-- BOLT_STEP_END (R142). -/
  | boltStepEnd
  /-- DWELL_END (R135). -/
  | dwellEnd
  /-- SENSE_READING (R136). -/
  | senseReading
  /-- END_OF_ARBITRATION_FIELD (R38). -/
  | endOfArbitrationField
  /-- OWN_ADDRESS_FRAME_RECEIVED (R39): a frame from another station whose source is this post's address. -/
  | ownAddressFrameReceived
  /-- UNKNOWN_KIND_FRAME (R51): a frame with this kind code, unknown to the post, or with rank 6 or 7, or an ACTION frame,
  its payload whole, with an action code of none of the twelve actions (log 36). -/
  | unknownKindFrame (kind : Byte) (frame : RowFrame)
  deriving DecidableEq, Repr

end Sys2Proof
end

