-- ==== Sys2Proof/WellFormed.lean ====
section
/-! DEFINITION. WellFormed: which commands can reach the post at all. A command that is not well formed names no event of
the spec; each meaning still answers it (a total function), and no statement needs it. -/

namespace Sys2Proof

/-- A payload is at most 255 bytes (R181, byte 4). -/
def RowFrame.wf (f : RowFrame) : Bool := f.payload.length ≤ 255

/-- The kind codes R182 lists. -/
def knownKindCode (k : Byte) : Bool := 1 ≤ k.toNat && k.toNat ≤ 16

/-- A frame of kind ACTION whose action code is none of R182's twelve: it fails test 1 of R51 and comes as an unknown-kind
frame (log 36). -/
def unlistedAction (kind : Byte) (f : RowFrame) : Bool :=
  kind == 6#8 && (match f.payload with
    | code :: _ => code == 0#8 || 12 < code.toNat
    | [] => true)

/-- The checks: payload lengths (R181); the record is 438 bytes (R186); a wrong length byte is other than 31 (R94); a
PRESENT that has fully arrived has 31 bytes after its length byte (R183); a tag answers at most 6 bytes (R184); an
unknown-kind frame has a kind code R182 does not list, a rank no kind has (R51, R56) or an unlisted action code (log 36); a
vetoed frame was read at least to its start bit (R181). -/
def Instr.wf : Instr → Bool
  | .endOfStartUp (some bytes) => bytes.length ≤ Config.recordBytes
  | .frameVetoed (.other levels) => !levels.isEmpty
  | .claim f | .object f | .lapse f | .revoke f | .beacon f | .join f | .dump f | .dumpEnd f | .logFetch f | .logClear f
  | .statusQuery f | .hold f | .resume f | .maintainEnter f | .maintainExit f | .hush f | .unhush f | .faultClear f
  | .serviceOpen f | .serviceClose f | .relatchOpen f | .patrolNow f | .restart f => f.wf
  | .serviceFrameDiscarded _ f => f.wf
  | .wrongLengthByte len => len != 31#8
  | .presentFullyArrived bytes => bytes.length == 31
  | .tagReadAttemptCompletion _ answer => answer.length ≤ 6
  | .unknownKindFrame kind f => f.wf && (!knownKindCode kind || 6 ≤ f.rank.toNat || unlistedAction kind f)
  | .powerOn _ | .resetPin _ | .endOfStartUp none | .sendStart | .arbitrationLost | .frameVetoed (.own _) | .frameCutOff
  | .claimEcho | .objectEcho | .lapseEcho | .joinEcho | .dumpEcho | .dumpEndEcho | .logReadyEcho | .logDataEcho
  | .statusReplyEcho | .noticeEcho | .actionDelayExpiry | .secondIntervalExpiry | .beaconLossExpiry | .settleExpiry
  | .joinAtFirstIdleGap | .joinWindowExpiry | .dumpStaggerExpiry | .startMarker | .intakeTimerExpiry
  | .tokenCheckCompletion | .verdictSent | .bayLightSent | .presenceRising _ | .presenceFalling _ | .seatRising _
  | .seatFalling _ | .homeRising _ | .homeFalling _ | .clearRising _ | .clearFalling _ | .driverFaultRising _
  | .driverFaultFalling _ | .coldInputChange _ | .takeTimerExpiry _ | .patrolTimerExpiry | .faultResetPulseEnd
  | .boltStepEnd | .dwellEnd | .senseReading | .endOfArbitrationField | .ownAddressFrameReceived => true

end Sys2Proof
end

