-- ==== Sys2Proof/Decode.lean ====
section
/-! DEFINITION. Decode: the commands that table words spell. No row of spec/opcode_table.json gives any bits (every row's
"fields" is empty), so no word spells a command. -/

namespace Sys2Proof

/-- The command the word `w` of `nbits` bits spells by the opcode table: none, since no row has bits there. -/
def decodeTableWord (_nbits _w : Nat) : Option Instr := none

end Sys2Proof
end

