-- ==== Sys2Proof/Machine/State.lean ====
section
/-! DEFINITION. State: everything the spec gives the post, as plain data, and the post right after power-on. -/

namespace Sys2Proof.Machine

/-! ### Values -/

/-- A timer: stopped, or running with the time it was last started with, in ms (log 2: the passing of time is the
environment's, its end is a command). -/
abbrev Timer := Option Nat

/-- One value for each of the four bays. -/
structure PerBay (α : Type) where
  b0 : α
  b1 : α
  b2 : α
  b3 : α
  deriving DecidableEq, Repr

/-- The post modes (R172), in the order of the STATUS-REPLY codes (R182). -/
inductive PostMode where
  | starting
  | configFault
  | joining
  | service
  | hold
  | closing
  | maintenance
  deriving DecidableEq, Repr

/-- The stamp states (R11). -/
inductive StampState where
  | unset
  | set
  | stale
  deriving DecidableEq, Repr

/-- The twelve action codes, in the order of R182. -/
inductive RowAction where
  | hold
  | resume
  | maintainEnter
  | maintainExit
  | hush
  | unhush
  | faultClear
  | serviceOpen
  | serviceClose
  | relatchOpen
  | patrolNow
  | restart
  deriving DecidableEq, Repr

/-- The four sensors of a bay, in the order of their codes (R112, R186). -/
inductive Sensor where
  | presence
  | seat
  | home
  | clear
  deriving DecidableEq, Repr

/-! ### The configuration image (R174, R186) -/

/-- The six roles (R134). -/
inductive Role where
  | release
  | relatch
  | home
  | patrol
  | serviceOpen
  | serviceClose
  deriving DecidableEq, Repr

/-- A step's action (R135); `out` and `inward` with their count field n. -/
inductive StepAction where
  | out (n : Nat)
  | inward (n : Nat)
  | dwell (t : Nat)
  | sense
  deriving DecidableEq, Repr

/-- A step's completion mode (R136). -/
inductive StepMode where
  | plain
  | stopWhen (sensor : Sensor) (level : Bool)
  | untilSees (sensor : Sensor) (level : Bool) (limit : Nat)
  | edge (sensor : Sensor) (limit : Nat)
  deriving DecidableEq, Repr

/-- A profile step (R135, R136). `fromClearPoint` is the count source CLEAR POINT. -/
structure Step where
  action : StepAction
  fromClearPoint : Bool
  mode : StepMode
  deriving DecidableEq, Repr

/-- The role map: the slot each role names (R134). -/
structure RoleMap where
  release : Nat
  relatch : Nat
  home : Nat
  patrol : Nat
  serviceOpen : Nat
  serviceClose : Nat
  deriving DecidableEq, Repr

/-- Cold modes (R115). -/
inductive ColdMode where
  | off
  | auto
  | always
  deriving DecidableEq, Repr

/-- Clear modes (R147). -/
inductive ClearMode where
  | auto
  | explicit
  deriving DecidableEq, Repr

/-- A configuration record as fields (R174); durations in the unit the field's name ends with. -/
structure Image where
  site : BitVec 16
  gateway : Addr
  baysFitted : Nat
  settleMs : Nat
  takeS : Nat
  skewS : Nat
  beaconLossMin : Nat
  joinWindowS : Nat
  dumpStaggerMs : Nat
  actionStaggerMs : Nat
  actionMask : BitVec 16
  notices : Bool
  noticeDest : Addr
  attentionMask : BitVec 16
  segments : Nat
  clearMode : ClearMode
  patrolMin : Nat
  coldMode : ColdMode
  coldSensor : Bool
  stepMs : Nat
  roles : RoleMap
  profiles : List (List Step)
  siteKey : BitVec 128
  deriving DecidableEq, Repr

/-- What a block would read while no image is loaded (log 19): no block acts on it, since no bay, frame or tap is served
by configuration in STARTING and CONFIG-FAULT. -/
def Image.blank : Image :=
  { site := 0, gateway := 0, baysFitted := 0, settleMs := 0, takeS := 0, skewS := 0, beaconLossMin := 0, joinWindowS := 0,
    dumpStaggerMs := 0, actionStaggerMs := 0, actionMask := 0, notices := false, noticeDest := 0, attentionMask := 0,
    segments := 1, clearMode := .auto, patrolMin := 0, coldMode := .off, coldSensor := false, stepMs := 0,
    roles := ⟨0, 0, 0, 0, 0, 0⟩, profiles := [], siteKey := 0 }

/-! ### Claim Table and Claim Engine -/

/-- Entry statuses (R17, R18). -/
inductive EntryStatus where
  | ownPending
  | ownSettling
  | ownHeld
  | ownTaken
  | peerClaimed
  | void
  | revoked
  deriving DecidableEq, Repr

/-- A Claim Table entry (R17). -/
structure Entry where
  token : TokenId
  status : EntryStatus
  claimant : Option Addr
  bay : Option Bay
  expiry : Stamp
  revokedLate : Bool
  deriving DecidableEq, Repr

/-- The settle timer while it runs (R57). -/
structure SettleTimer where
  left : Nat
  token : TokenId
  deriving DecidableEq, Repr

/-- A record of the objection set (R57). -/
structure Objection where
  token : TokenId
  claimant : Addr
  deriving DecidableEq, Repr

/-- The Claim Engine's state (R57). -/
structure ClaimEngine where
  settle : Option SettleTimer
  objections : List Objection
  deriving DecidableEq, Repr

/-! ### Attention Queue (R160, R161) -/

/-- Attention sources, highest first (R160, R162). -/
inductive Source where
  | post
  | line
  | table
  | store
  | stamp
  | bay (b : Bay)
  deriving DecidableEq, Repr

/-- Attention codes, in the order of the table of R161. -/
inductive Code where
  | forcedRemoval
  | latchFail
  | homeNotFound
  | driverFault
  | duplicateAddress
  | tagUnread
  | lateObjection
  | revokedLate
  | tablePressure
  | objectionDropped
  | frameDropped
  | storeBlocked
  | stampStale
  | coldJoin
  | clockAhead
  | actionDropped
  deriving DecidableEq, Repr

/-- The fields of an entry or waiting record (R160); the class is fixed by the code. -/
structure Attention where
  source : Source
  code : Code
  stamp : Option Stamp
  count : Nat
  deriving DecidableEq, Repr

/-- An entry of the queue with its noticed mark (R160). -/
structure QueuedAttention where
  att : Attention
  noticed : Bool
  deriving DecidableEq, Repr

/-- The Attention Queue's state (R160). The waiting set is kept in the order its records were made (R162, rule 3). -/
structure AttentionQueue where
  queue : List QueuedAttention
  waiting : List Attention
  hush : Bool
  deriving DecidableEq, Repr

/-! ### Rental Record Store (R147, R148) -/

/-- What a bay's lapse ended by (R113, R148). -/
inductive RelatchCause where
  | notTaken
  | relatchAction
  deriving DecidableEq, Repr

/-- What a writer hands the store, by kind (R148): START, RETURN, a bay's LAPSE, the post's LAPSE with reason NO BAY, and
RESET-MARK. -/
inductive RecordBody where
  | start (bay : Bay) (token : TokenId) (bikeId : Option BikeId) (bikeClass : Option BikeClass) (lateTake : Bool)
  | returned (bay : Bay) (bikeId : Option BikeId) (bikeClass : Option BikeClass) (latchFailed : Bool)
  | lapse (bay : Bay) (token : TokenId) (bikeId : Option BikeId) (bikeClass : Option BikeClass) (reason : RelatchCause)
  | noBay (token : TokenId)
  | resetMark
  deriving DecidableEq, Repr

/-- A rental record in a slot (R148): what was handed over and what the store adds at writing (R149). -/
structure RentalRecord where
  seq : BitVec 16
  stamp : Option Stamp
  stale : Bool
  held : Bool
  body : RecordBody
  deriving DecidableEq, Repr

/-- The Rental Record Store's state (R147). `waiting` is the five pending lists in one, in hand-over order; the list a
record stands in follows from its body (R152). -/
structure RecordStore where
  slots : List (Option RentalRecord)
  writer : Nat
  nextSeq : BitVec 16
  flags : List Bool
  cursors : List Nat
  waiting : List RecordBody
  deriving DecidableEq, Repr

/-- The store after power-on or RESET pin (R147). -/
def RecordStore.reset : RecordStore :=
  { slots := List.replicate Config.storeSlots none, writer := 0, nextSeq := 0, flags := List.replicate 8 false,
    cursors := List.replicate 8 0, waiting := [] }

/-! ### Row Line Controller (R37, R56) -/

/-- OBJECT reasons (R56). -/
inductive ObjectReason where
  | spent
  | void
  | revoked
  deriving DecidableEq, Repr

/-- LAPSE reasons (R56). -/
inductive LapseReason where
  | notTaken
  | relatchAction
  | noBay
  deriving DecidableEq, Repr

/-- Transfer statuses of a dump entry (R29, R56). -/
inductive TransferStatus where
  | claimed
  | void
  | revoked
  deriving DecidableEq, Repr

/-- A dump entry (R56, R84). -/
structure DumpEntry where
  token : TokenId
  status : TransferStatus
  claimant : Option Addr
  bay : Option Bay
  expiry : Stamp
  deriving DecidableEq, Repr

/-- The dump cursor: a table index, or END (R78). -/
inductive Cursor where
  | index (i : Nat)
  | atEnd
  deriving DecidableEq, Repr

/-- LOG-DATA refusal reasons (R155, R157, R182). -/
inductive Refused where
  | range
  | notReady
  deriving DecidableEq, Repr

/-- The frame kinds (R56). -/
inductive FrameKind where
  | object
  | claim
  | lapse
  | revoke
  | beacon
  | action
  | join
  | dump
  | dumpEnd
  | logFetch
  | statusQuery
  | logClear
  | logReady
  | logData
  | statusReply
  | notice
  deriving DecidableEq, Repr

/-- A frame of this post in a transmit queue. DUMP, DUMP-END and STATUS-REPLY have their contents settled at each send
start (R43); the others' contents are fixed when queued. -/
inductive Frame where
  | object (token : TokenId) (claimant : Addr) (reason : ObjectReason)
  | claim (token : TokenId) (bay : Bay) (expiry : Stamp)
  | lapse (token : TokenId) (reason : LapseReason)
  | join
  | dump
  | dumpEnd
  | logReady (segment : Nat) (firstSeq : BitVec 16)
  | logData (requester : Addr) (segment : Byte) (start : BitVec 16) (records : List RentalRecord) (endOfSegment : Bool)
      (refusal : Option Refused) (advancing : Bool)
  | statusReply (requester : Addr) (take : Bool)
  | notice (entry : Attention)
  deriving DecidableEq, Repr

/-- A queued frame with its veto count (R37). -/
structure Queued where
  frame : Frame
  vetoes : Nat
  deriving DecidableEq, Repr

/-- Bay states, in the order of the table of R113. -/
inductive BayState where
  | absent
  | calibrating
  | empty
  | docking
  | docked
  | reserved
  | releasing
  | opened
  | relatching
  | reopening
  | serviceOpen
  | faulted
  deriving DecidableEq, Repr

/-- A bay's part of a STATUS-REPLY (R167). -/
structure BaySummary where
  state : BayState
  bikeId : Option BikeId
  pending : Nat
  deriving DecidableEq, Repr

/-- What a STATUS-REPLY carries beside the mode outside CONFIG-FAULT (R167). -/
structure StatusBody where
  stampState : StampState
  stamp : Option Stamp
  bays : PerBay BaySummary
  writerSegment : Nat
  flags : List Bool
  blocked : Bool
  attentionCount : Nat
  attention : Option Attention
  deriving DecidableEq, Repr

/-- Contents settled at a send start for the attempt that follows (R43). `fixed` is the contents fixed when queued. -/
inductive Settled where
  | fixed
  | dump (seq : BitVec 6) (entries : List DumpEntry) (next : Cursor)
  | dumpEnd (frames entries : Nat) (stampState : StampState) (stamp : Option Stamp)
  | status (mode : PostMode) (body : Option StatusBody)
  deriving DecidableEq, Repr

/-- The phases of an attempt (R37). -/
inductive AttemptPhase where
  | arbitrating
  | sending
  deriving DecidableEq, Repr

/-- Which transmit queue. -/
inductive QueueSide where
  | protocol
  | service
  deriving DecidableEq, Repr

/-- The attempt in flight (R37): the queued frame by its place, the contents settled for it, and whether its producer has
removed it meanwhile (R45). -/
structure Attempt where
  phase : AttemptPhase
  side : QueueSide
  place : Nat
  settled : Settled
  removed : Bool
  deriving DecidableEq, Repr

/-- The Row Line Controller's state (R37), with the veto slot output (R40): whether this post drove the veto slot of the
last frame that ended (log 24). -/
structure RowLine where
  protocol : List Queued
  service : List Queued
  attempt : Option Attempt
  vetoDriven : Bool
  deriving DecidableEq, Repr

/-! ### Join Unit (R78) -/

/-- Join states (R78). -/
inductive JoinState where
  | off
  | gapWait
  | announcing
  | listening
  deriving DecidableEq, Repr

/-- Dump states (R78). -/
inductive DumpState where
  | idle
  | stagger
  | dumping
  deriving DecidableEq, Repr

/-- The Join Unit's state (R78). -/
structure JoinUnit where
  join : JoinState
  window : Timer
  restartUsed : Bool
  tracked : Option Addr
  framesCounted : Nat
  entriesCounted : Nat
  dump : DumpState
  stagger : Timer
  owed : Bool
  cursor : Cursor
  nextSeq : BitVec 6
  framesSent : Nat
  entriesSent : Nat
  deriving DecidableEq, Repr

/-- The Join Unit's values after each reset (R78). -/
def JoinUnit.reset : JoinUnit :=
  { join := .off, window := none, restartUsed := false, tracked := none, framesCounted := 0, entriesCounted := 0,
    dump := .idle, stagger := none, owed := false, cursor := .index 0, nextSeq := 0, framesSent := 0, entriesSent := 0 }

/-! ### Site Stamp Unit (R11) and Token Check Unit (R6) -/

/-- The Site Stamp Unit's state (R11). -/
structure SiteStamp where
  stamp : Option Stamp
  state : StampState
  beaconLoss : Timer
  second : Timer
  deriving DecidableEq, Repr

/-- A presented token (R1) as its record carries it (R183). `classHigh` is bits 7 to 4 of byte 12, which have no meaning
to the post but enter the keyed code. -/
structure Token where
  id : TokenId
  site : BitVec 16
  targetPost : Byte
  targetBay : Byte
  classHigh : BitVec 4
  cls : BitVec 4
  notBefore : Stamp
  notAfter : Stamp
  check : BitVec 64
  deriving DecidableEq, Repr

/-- The Token Check Unit's state (R6): busy flag, and working copy with the check value kept for comparison (R7). -/
structure TokenCheck where
  busy : Bool
  copy : Option Token
  deriving DecidableEq, Repr

/-! ### Tap Sequencer and tap link (R93, R95) -/

/-- Phases (R95). -/
inductive TapPhase where
  | idle
  | intake
  | checking
  | selecting
  | claiming
  | settling
  | releaseStart
  | verdict
  deriving DecidableEq, Repr

/-- Verdicts, in the order of their codes (R183); only GRANTED has a bay (R93). -/
inductive Verdict where
  | granted (bay : Bay)
  | malformed
  | wrongSite
  | wrongPost
  | noTime
  | tooEarly
  | expired
  | postClosed
  | logFull
  | busy
  | badCheck
  | revoked
  | spent
  | noBike
  | claimedElsewhere
  | objected
  | lineFault
  | bayFault
  deriving DecidableEq, Repr

/-- Whose PRESENT is being collected (R94, R96, R98). -/
inductive Collecting where
  | transaction
  | second
  deriving DecidableEq, Repr

/-- The tap transaction record with the rotation pointer, the intake timer and the kept token ID (R95). -/
structure TapRecord where
  phase : TapPhase
  token : Option Token
  chosen : Option Bay
  candidates : List Bay
  position : Nat
  closed : Bool
  verdict : Option Verdict
  rotation : Bay
  intake : Timer
  collecting : Option Collecting
  kept : Option TokenId
  deriving DecidableEq, Repr

/-- The Tap Sequencer's values after each reset (R95). -/
def TapRecord.reset : TapRecord :=
  { phase := .idle, token := none, chosen := none, candidates := [], position := 0, closed := false, verdict := none,
    rotation := 3, intake := none, collecting := none, kept := none }

/-- What a VERDICT message answers: the running transaction, a second presentation (R98), or a transaction that RESTART
dropped while its VERDICT was under transmission (R111). -/
inductive VerdictFor where
  | transaction
  | second
  | dropped
  deriving DecidableEq, Repr

/-- BAY-LIGHT indications (R93). -/
inductive Indication where
  | opened
  | shut
  | fault
  deriving DecidableEq, Repr

/-- Messages to the reader module (R93). -/
inductive TapMessage where
  | verdict (v : Verdict) (answers : VerdictFor)
  | bayLight (bay : Bay) (indication : Indication)
  deriving DecidableEq, Repr

/-- The tap transmit list and the link transmitter (R93). -/
structure TapLink where
  list : List TapMessage
  sending : Option TapMessage
  deriving DecidableEq, Repr

/-! ### Bays (R112, R113) -/

/-- Fault codes (R113). -/
inductive FaultCode where
  | forcedRemoval
  | latchFail
  | homeNotFound
  | driverFault
  deriving DecidableEq, Repr

/-- Follow-on runs (R113). -/
inductive FollowOn where
  | home
  | release
  deriving DecidableEq, Repr

/-- A bay record (R113). `tagRead` is the attempt under way; `failedDock` is the fault code a failed docking will leave
when its tag read has ended (R120, log 13). The drive request and the pending list are computed (R144, R147). -/
structure BayRecord where
  state : BayState
  bikeId : Option BikeId
  bikeClass : Option BikeClass
  clearPoint : Option Nat
  claim : Option TokenId
  cause : Option RelatchCause
  take : Timer
  fault : Option FaultCode
  followOn : Option FollowOn
  tagRead : Option Nat
  failedDock : Option FaultCode
  deriving DecidableEq, Repr

/-- A bay record after power-on or RESET pin (R113). -/
def BayRecord.reset : BayRecord :=
  { state := .calibrating, bikeId := none, bikeClass := none, clearPoint := none, claim := none, cause := none,
    take := none, fault := none, followOn := none, tagRead := none, failedDock := none }

/-- The levels at a bay's inputs, `true` for asserted (R112): pins, which no reset of the post changes (log 7). -/
structure BayInputs where
  presence : Bool
  seat : Bool
  home : Bool
  clear : Bool
  driverFault : Bool
  deriving DecidableEq, Repr

/-- No input of a bay asserted: the levels `State.reset` starts from (log 7). -/
def BayInputs.rest : BayInputs := ⟨false, false, false, false, false⟩

/-! ### Drive Arbiter and Profile Runner (R140, R144) -/

/-- What a run is for: a role, or the calibration opening (R134, R140). -/
inductive RunFor where
  | role (r : Role)
  | opening
  deriving DecidableEq, Repr

/-- A waiting request (R144). -/
structure Request where
  bay : Bay
  run : RunFor
  deriving DecidableEq, Repr

/-- The Drive Arbiter's state (R144): `holder` is `none` while the drive is FREE. -/
structure DriveArbiter where
  waiting : List Request
  holder : Option Bay
  deriving DecidableEq, Repr

/-- EDGE phases (R137). -/
inductive EdgePhase where
  | seekLow
  | seekHigh
  deriving DecidableEq, Repr

/-- The run in progress (R140). `index` is the current step numbered from 1, and 0 during the fault-reset pulse; `made` is
the bolt steps, or waits of an UNTIL step on SENSE, made in it; `outs` the OUT bolt steps since the anchor. -/
structure Run where
  bay : Bay
  run : RunFor
  steps : List Step
  clearPoint : Option Nat
  cold : Bool
  index : Nat
  made : Nat
  edge : EdgePhase
  outs : Nat
  measured : Option Nat
  stop : Bool
  deriving DecidableEq, Repr

/-! ### Action Unit (R170) -/

/-- A record of the action delay list (R170). -/
structure DelayRecord where
  action : RowAction
  bay : Option Bay
  left : Nat
  deriving DecidableEq, Repr

/-! ### The state -/

/-- The post. `pending` is the queue of commands waiting for it (not the spec's). -/
structure State where
  mode : PostMode
  strap : Addr
  image : Option Image
  restartDue : Bool
  rlc : RowLine
  table : List (Option Entry)
  ce : ClaimEngine
  ju : JoinUnit
  ssu : SiteStamp
  tcu : TokenCheck
  tap : TapRecord
  link : TapLink
  bays : PerBay BayRecord
  inputs : PerBay BayInputs
  cold : Bool
  patrol : Timer
  drive : DriveArbiter
  run : Option Run
  store : RecordStore
  aq : AttentionQueue
  delays : List DelayRecord
  pending : List Instr
  deriving DecidableEq, Repr

/-- Why a step could stop with a fault: the spec names no condition in which the post stops (its troubles are attention
codes, verdicts, FAULTED bays and CONFIG-FAULT, all of them effects on State), so there is no reason. -/
inductive Fault where
  deriving DecidableEq, Repr

/-- Why a step could be refused. -/
inductive Refusal where
  /-- A command with no meaning yet, by its mnemonic: raised only in an arm of `exec` that has none. Safe. -/
  | notModelled (mnemonic : String)
  deriving DecidableEq, Repr

/-- The post right after power-on, before anything reaches it: STARTING, every block at the values its chapter states
(R11, R32, R37, R57, R78, R95, R113, R144, R147, R160, R170, R172), the strap address 0 until POWER_ON or RESET_PIN reads
the pins (log 6), every sensor, driver-fault and COLD pin not asserted (log 7). -/
def State.reset : State :=
  { mode := .starting
    strap := 0
    image := none
    restartDue := false
    rlc := { protocol := [], service := [], attempt := none, vetoDriven := false }
    table := List.replicate Config.tablePlaces none
    ce := { settle := none, objections := [] }
    ju := JoinUnit.reset
    ssu := { stamp := none, state := .unset, beaconLoss := none, second := none }
    tcu := { busy := false, copy := none }
    tap := TapRecord.reset
    link := { list := [], sending := none }
    bays := ⟨BayRecord.reset, BayRecord.reset, BayRecord.reset, BayRecord.reset⟩
    inputs := ⟨BayInputs.rest, BayInputs.rest, BayInputs.rest, BayInputs.rest⟩
    cold := false
    patrol := none
    drive := { waiting := [], holder := none }
    run := none
    store := RecordStore.reset
    aq := { queue := [], waiting := [], hush := false }
    delays := []
    pending := [] }

end Sys2Proof.Machine
end

