-- ==== Sys2Proof/Machine/Ops.lean ====
section
/-! DEFINITION. Ops: reading and replacing the pieces of State. Every other file changes State through these, so that one
lemma per field and update (Laws/State.lean) says what is left unchanged. -/

namespace Sys2Proof.Machine

/-- The value of bay `b`. -/
def PerBay.get {α : Type} (p : PerBay α) (b : Bay) : α :=
  match b with
  | 0 => p.b0
  | 1 => p.b1
  | 2 => p.b2
  | 3 => p.b3

/-- The values with that of bay `b` replaced. -/
def PerBay.set {α : Type} (p : PerBay α) (b : Bay) (x : α) : PerBay α :=
  match b with
  | 0 => { p with b0 := x }
  | 1 => { p with b1 := x }
  | 2 => { p with b2 := x }
  | 3 => { p with b3 := x }

/-- The four bay numbers, lowest first: the order of every act on several bays at once (R145, R168). -/
def allBays : List Bay := [0, 1, 2, 3]

/-- `s` with the post mode replaced. -/
def State.setMode (s : State) (x : PostMode) : State := { s with mode := x }

/-- `s` with the strap address replaced. -/
def State.setStrap (s : State) (x : Addr) : State := { s with strap := x }

/-- `s` with the configuration image replaced. -/
def State.setImage (s : State) (x : Option Image) : State := { s with image := x }

/-- `s` with the restart-due flag replaced. -/
def State.setRestartDue (s : State) (x : Bool) : State := { s with restartDue := x }

/-- `s` with the Row Line Controller replaced. -/
def State.setRlc (s : State) (x : RowLine) : State := { s with rlc := x }

/-- `s` with the Claim Table replaced. -/
def State.setTable (s : State) (x : List (Option Entry)) : State := { s with table := x }

/-- `s` with the Claim Engine replaced. -/
def State.setCe (s : State) (x : ClaimEngine) : State := { s with ce := x }

/-- `s` with the Join Unit replaced. -/
def State.setJu (s : State) (x : JoinUnit) : State := { s with ju := x }

/-- `s` with the Site Stamp Unit replaced. -/
def State.setSsu (s : State) (x : SiteStamp) : State := { s with ssu := x }

/-- `s` with the Token Check Unit replaced. -/
def State.setTcu (s : State) (x : TokenCheck) : State := { s with tcu := x }

/-- `s` with the Tap Sequencer replaced. -/
def State.setTap (s : State) (x : TapRecord) : State := { s with tap := x }

/-- `s` with the tap link replaced. -/
def State.setLink (s : State) (x : TapLink) : State := { s with link := x }

/-- `s` with the bay records replaced. -/
def State.setBays (s : State) (x : PerBay BayRecord) : State := { s with bays := x }

/-- `s` with the bay inputs replaced. -/
def State.setInputs (s : State) (x : PerBay BayInputs) : State := { s with inputs := x }

/-- `s` with the COLD input replaced. -/
def State.setCold (s : State) (x : Bool) : State := { s with cold := x }

/-- `s` with the patrol timer replaced. -/
def State.setPatrol (s : State) (x : Timer) : State := { s with patrol := x }

/-- `s` with the Drive Arbiter replaced. -/
def State.setDrive (s : State) (x : DriveArbiter) : State := { s with drive := x }

/-- `s` with the run in progress replaced. -/
def State.setRun (s : State) (x : Option Run) : State := { s with run := x }

/-- `s` with the Rental Record Store replaced. -/
def State.setStore (s : State) (x : RecordStore) : State := { s with store := x }

/-- `s` with the Attention Queue replaced. -/
def State.setAq (s : State) (x : AttentionQueue) : State := { s with aq := x }

/-- `s` with the action delay list replaced. -/
def State.setDelays (s : State) (x : List DelayRecord) : State := { s with delays := x }

/-- The record of bay `b`. -/
def State.bay (s : State) (b : Bay) : BayRecord := s.bays.get b

/-- `s` with the record of bay `b` replaced. -/
def State.setBay (s : State) (b : Bay) (r : BayRecord) : State := s.setBays (s.bays.set b r)

/-- The inputs of bay `b`. -/
def State.input (s : State) (b : Bay) : BayInputs := s.inputs.get b

/-- `s` with the inputs of bay `b` replaced. -/
def State.setInput (s : State) (b : Bay) (i : BayInputs) : State := s.setInputs (s.inputs.set b i)

/-- `s` with the protocol transmit queue as given. -/
def State.setProtocol (s : State) (q : List Queued) : State := s.setRlc { s.rlc with protocol := q }

/-- `s` with the service transmit queue as given. -/
def State.setService (s : State) (q : List Queued) : State := s.setRlc { s.rlc with service := q }

/-- `s` with the attempt in flight as given. -/
def State.setAttempt (s : State) (a : Option Attempt) : State := s.setRlc { s.rlc with attempt := a }

/-- `s` with the veto slot output as given. -/
def State.setVeto (s : State) (v : Bool) : State := s.setRlc { s.rlc with vetoDriven := v }

/-- The level of one sensor of a bay (R112). -/
def BayInputs.level (i : BayInputs) : Sensor → Bool
  | .presence => i.presence
  | .seat => i.seat
  | .home => i.home
  | .clear => i.clear

/-- The inputs with one sensor's level replaced. -/
def BayInputs.setLevel (i : BayInputs) (sensor : Sensor) (v : Bool) : BayInputs :=
  match sensor with
  | .presence => { i with presence := v }
  | .seat => { i with seat := v }
  | .home => { i with home := v }
  | .clear => { i with clear := v }

/-- The slot a role names (R134). -/
def RoleMap.slot (m : RoleMap) : Role → Nat
  | .release => m.release
  | .relatch => m.relatch
  | .home => m.home
  | .patrol => m.patrol
  | .serviceOpen => m.serviceOpen
  | .serviceClose => m.serviceClose

end Sys2Proof.Machine
end

