-- ==== Sys2Proof/Machine/Flags.lean ====
section
/-! DEFINITION. Flags: the conditions the rules compute from State and that no block stores: BLOCKED, the bays' drive
requests, eligibility, all bays idle, and the like. -/

namespace Sys2Proof.Machine

/-! ### Configuration and mode -/

/-- The settings the blocks read: the image, once start-up has loaded one (R175). -/
def State.cfg (s : State) : Image := s.image.getD Image.blank

/-- The modes in which the post works: JOINING, SERVICE, HOLD, CLOSING and MAINTENANCE (R53, R163, R171). -/
def PostMode.working : PostMode → Bool
  | .starting | .configFault => false
  | .joining | .service | .hold | .closing | .maintenance => true

/-- The four modes out of JOINING in which the post answers JOINs (R81). -/
def PostMode.running : PostMode → Bool
  | .starting | .configFault | .joining => false
  | .service | .hold | .closing | .maintenance => true

/-- Bay `b` is fitted (00_scope.md, Conventions: fitted bays are numbered from 0 upward). -/
def State.fitted (s : State) (b : Bay) : Bool := b.val < s.cfg.baysFitted

/-- The fitted bays, lowest first. -/
def State.fittedBays (s : State) : List Bay := allBays.filter s.fitted

/-- The bays a bay argument names (R168): present, that bay when it is fitted; absent, every fitted bay in bay order. -/
def State.baysNamed (s : State) : Option Bay → List Bay
  | some b => if s.fitted b then [b] else []
  | none => s.fittedBays

/-! ### Claim Table -/

/-- The statuses that may be evicted and swept (R18). -/
def EntryStatus.evictable : EntryStatus → Bool
  | .ownPending | .ownSettling | .ownHeld => false
  | .ownTaken | .peerClaimed | .void | .revoked => true

/-- The slot holds the entry for the token. -/
def holdsToken (t : TokenId) (slot : Option Entry) : Bool :=
  match slot with
  | some e => e.token == t
  | none => false

/-- Lookup by token ID (R20): the entry that holds the ID, or none. -/
def lookupEntry (t : TokenId) (table : List (Option Entry)) : Option Entry :=
  (table.find? (holdsToken t)).join

/-- The post's own lookup of a token. -/
def State.entry (s : State) (t : TokenId) : Option Entry := lookupEntry t s.table

/-- The later of two stamps (R27, R28, R29, R73). -/
def laterStamp (a b : Stamp) : Stamp := if a.toNat < b.toNat then b else a

/-! ### Row line -/

/-- The rank of each kind (R56). -/
def FrameKind.rank : FrameKind → Nat
  | .object => 0
  | .claim | .lapse => 1
  | .revoke | .beacon | .action | .join => 2
  | .dump | .dumpEnd => 3
  | .logFetch | .statusQuery | .logClear => 4
  | .logReady | .logData | .statusReply | .notice => 5

/-- The kind of a queued frame. -/
def Frame.kind : Frame → FrameKind
  | .object _ _ _ => .object
  | .claim _ _ _ => .claim
  | .lapse _ _ => .lapse
  | .join => .join
  | .dump => .dump
  | .dumpEnd => .dumpEnd
  | .logReady _ _ => .logReady
  | .logData _ _ _ _ _ _ _ => .logData
  | .statusReply _ _ => .statusReply
  | .notice _ => .notice

/-- The gateway kinds (R52). -/
def FrameKind.gatewayOnly : FrameKind → Bool
  | .revoke | .beacon | .action | .logFetch | .statusQuery | .logClear => true
  | .object | .claim | .lapse | .join | .dump | .dumpEnd | .logReady | .logData | .statusReply | .notice => false

/-- The destination forms each kind allows (R56). -/
def FrameKind.allows (k : FrameKind) : Destination → Bool
  | .all =>
    match k with
    | .object | .claim | .lapse | .revoke | .beacon | .action | .join | .dump | .dumpEnd => true
    | .logFetch | .statusQuery | .logClear | .logReady | .logData | .statusReply | .notice => false
  | .span _ _ =>
    match k with
    | .revoke | .action => true
    | _ => false
  | .one _ =>
    match k with
    | .action | .logFetch | .statusQuery | .logClear | .logReady | .logData | .statusReply | .notice => true
    | _ => false

/-- A destination names an address (R51); a SPAN whose base exceeds its limit names none. -/
def destinationNames (d : Destination) (a : Addr) : Bool :=
  match d with
  | .one x => x == a
  | .span base limit => base.toNat ≤ a.toNat && a.toNat ≤ limit.toNat
  | .all => true

/-- The arbitration value of a frame (R38): its rank times 32 plus its source address; the lowest wins. -/
def arbitrationValue (rank : Nat) (source : Addr) : Nat := rank * 32 + source.toNat

/-- A transmit queue holds a frame of the kind. -/
def holdsKind (k : FrameKind) (q : List Queued) : Bool := q.any (fun x => x.frame.kind == k)

/-- The queue an attempt's frame stands in. -/
def State.side (s : State) : QueueSide → List Queued
  | .protocol => s.rlc.protocol
  | .service => s.rlc.service

/-- The queued frame an attempt sends. -/
def State.attemptFrame (s : State) (a : Attempt) : Option Queued := (s.side a.side)[a.place]?

/-- R48: a CLAIM is queued only when the protocol queue holds fewer than 12 frames and no LAPSE of this post. -/
def State.claimAdmitted (s : State) : Bool :=
  s.rlc.protocol.length < Config.protocolCapacity && !holdsKind .lapse s.rlc.protocol

/-! ### Attention Queue -/

/-- Classes (R160, R161), higher is more urgent: FAULT 2, WARN 1, INFO 0. -/
def Code.weight : Code → Nat
  | .forcedRemoval | .latchFail | .homeNotFound | .driverFault | .duplicateAddress => 2
  | .tagUnread | .lateObjection | .revokedLate | .tablePressure | .objectionDropped | .frameDropped | .storeBlocked
  | .stampStale => 1
  | .coldJoin | .clockAhead | .actionDropped => 0

/-- Source codes (R182), lowest first in the order of R162. -/
def Source.number : Source → Nat
  | .post => 0
  | .line => 1
  | .table => 2
  | .store => 3
  | .stamp => 4
  | .bay b => 5 + b.val

/-- The configured mask for the source is set (R161, R186). -/
def State.masked (s : State) (src : Source) : Bool := s.cfg.attentionMask.getLsbD src.number

/-- The attention entry is for the pair. -/
def Attention.isPair (a : Attention) (src : Source) (code : Code) : Bool := a.source == src && a.code == code

/-- The class, source and age order of R162: `a` is higher than `b`, made before it or not. -/
def Attention.above (a b : Attention) : Bool :=
  b.code.weight < a.code.weight || (a.code.weight == b.code.weight && a.source.number < b.source.number)

/-! ### Store -/

/-- Slots of one segment (R147). -/
def State.segmentSize (s : State) : Nat := Config.storeSlots / s.cfg.segments

/-- The writer segment (R147). -/
def State.writerSegment (s : State) : Nat := s.store.writer / s.segmentSize

/-- The ready flag of a segment. -/
def State.flagged (s : State) (segment : Nat) : Bool := s.store.flags.getD segment false

/-- BLOCKED: the writer position is the first slot of a flagged segment (R147, R151). -/
def State.blocked (s : State) : Bool := s.store.writer % s.segmentSize == 0 && s.flagged s.writerSegment

/-- The bay whose pending list a record goes to, or the post-level list (R152). -/
def RecordBody.home : RecordBody → Option Bay
  | .start b _ _ _ _ => some b
  | .returned b _ _ _ => some b
  | .lapse b _ _ _ _ => some b
  | .noBay _ => none
  | .resetMark => none

/-- A bay's pending record list (R147). -/
def State.pendingOf (s : State) (b : Bay) : List RecordBody := s.store.waiting.filter (fun r => r.home == some b)

/-- A bay's pending count (R133). -/
def State.pendingCount (s : State) (b : Bay) : Nat := (s.pendingOf b).length

/-! ### Drive and bays -/

/-- A bay's drive request as R113 and R144 read it. -/
inductive DriveRequest where
  | none
  | waiting (run : RunFor)
  | running (run : RunFor)
  deriving DecidableEq, Repr

/-- A request of the bay stands in the Drive Arbiter's list. -/
def State.requestWaits (s : State) (b : Bay) : Bool := s.drive.waiting.any (fun r => r.bay == b)

/-- A run of the bay is in progress. -/
def State.runsAt (s : State) (b : Bay) : Bool :=
  match s.run with
  | some r => r.bay == b
  | none => false

/-- The bay's drive request (R144): waiting while its request stands in the list, running while it holds the drive. -/
def State.driveRequest (s : State) (b : Bay) : DriveRequest :=
  match s.drive.waiting.find? (fun r => r.bay == b) with
  | some r => .waiting r.run
  | none =>
    match s.run with
    | some r => if r.bay = b then .running r.run else .none
    | none => .none

/-- The bay has a drive request, waiting or running. -/
def State.wantsDrive (s : State) (b : Bay) : Bool := s.requestWaits b || s.runsAt b

/-- The six states that keep a bay from being idle (R178). -/
def BayState.busy : BayState → Bool
  | .reserved | .releasing | .opened | .relatching | .reopening | .docking => true
  | .absent | .calibrating | .empty | .docked | .serviceOpen | .faulted => false

/-- All bays idle (R178): no fitted bay in one of the six states, and the tap transaction in IDLE. -/
def State.allBaysIdle (s : State) : Bool :=
  s.fittedBays.all (fun b => !(s.bay b).state.busy) && s.tap.phase == .idle

/-- R100: bay `b` is eligible for the token. -/
def State.eligible (s : State) (t : Token) (b : Bay) : Bool :=
  s.fitted b && (s.bay b).state == .docked && s.pendingCount b == 0
    && (match (s.bay b).bikeClass with
        | some c => t.cls == 15#4 || t.cls.toNat == c.toNat
        | none => false)
    && (t.targetBay == 255#8 || t.targetBay.toNat == b.val) && !s.runsAt b

/-- The bays in rotation order (R101): from the bay after the pointer upward, wrapping from 3 to 0. -/
def rotationOrder (pointer : Bay) : List Bay := [pointer + 1, pointer + 2, pointer + 3, pointer]

/-- R122, R171: a bay that a patrol expiry or PATROL-NOW makes request a PATROL run. -/
def State.patrols (s : State) (b : Bay) : Bool :=
  (s.bay b).state == .docked && s.pendingCount b == 0 && !s.wantsDrive b

/-! ### Runs -/

/-- The step a run is in; none during the fault-reset pulse (R140). -/
def Run.step (r : Run) : Option Step := if r.index = 0 then none else r.steps[r.index - 1]?

/-- The run stands in a DWELL (R142). -/
def Run.dwelling (r : Run) : Bool :=
  match r.step with
  | some ⟨.dwell _, _, _⟩ => true
  | _ => false

/-- The stepper's outputs at a bay (R112): whether steps are given and outward or inward, and the fault-reset output. -/
structure StepperLines where
  stepping : Bool
  outward : Bool
  faultReset : Bool
  deriving DecidableEq, Repr

/-- A bay's stepper lines: driven by the run in progress at that bay, at rest otherwise (R112, R140, R143). -/
def State.stepperLines (s : State) (b : Bay) : StepperLines :=
  match s.run with
  | some r =>
    if r.bay = b then
      match r.step with
      | none => ⟨false, false, true⟩
      | some ⟨.out _, _, _⟩ => ⟨true, true, false⟩
      | some ⟨.inward _, _, _⟩ => ⟨true, false, false⟩
      | some _ => ⟨false, false, false⟩
    else ⟨false, false, false⟩
  | none => ⟨false, false, false⟩

/-- The time to the run's next boundary, in ms (R115, R135, R140): one step period for the pulse, a bolt step or a wait of
SENSE, the DWELL time for a DWELL; doubled when the run is cold. -/
def State.boundaryMs (s : State) (r : Run) : Nat :=
  let scale := if r.cold then 2 else 1
  match r.step with
  | some ⟨.dwell t, _, _⟩ => scale * t
  | _ => scale * s.cfg.stepMs

end Sys2Proof.Machine
end

