-- ==== Sys2Proof/Machine/Operands.lean ====
section
/-! DEFINITION. Operands: reading and writing the bytes of spec/12_frame_and_record_layouts.md. -/

namespace Sys2Proof.Machine

/-! ### Bytes and bits -/

/-- The number bytes spell, most significant first. -/
def beNat (bytes : List Byte) : Nat := bytes.foldl (fun n b => n * 256 + b.toNat) 0

/-- `count` bytes that spell `n`, most significant first. -/
def beBytes (count n : Nat) : List Byte :=
  match count with
  | 0 => []
  | k + 1 => BitVec.ofNat 8 (n / 256 ^ k) :: beBytes k n

/-- The number in `count` bytes from byte `start` on. -/
def field (bytes : List Byte) (start count : Nat) : Nat := beNat ((bytes.drop start).take count)

/-- A byte that is 1 or 0. -/
def flag (b : Bool) : Nat := if b then 1 else 0

/-- The bits of a byte, bit 7 first. -/
def byteBits (b : Byte) : List Bool := [7, 6, 5, 4, 3, 2, 1, 0].map b.getLsbD

/-- The bits of bytes, in the order they are sent. -/
def bitsOf (bytes : List Byte) : List Bool := bytes.flatMap byteBits

/-- The byte eight bits spell, bit 7 first. -/
def byteOfBits (bits : List Bool) : Byte := BitVec.ofNat 8 (bits.foldl (fun n b => n * 2 + flag b) 0)

/-- The whole bytes a bit sequence spells. -/
def bytesOfBits : List Bool → List Byte
  | b7 :: b6 :: b5 :: b4 :: b3 :: b2 :: b1 :: b0 :: rest =>
    byteOfBits [b7, b6, b5, b4, b3, b2, b1, b0] :: bytesOfBits rest
  | _ => []

/-- One bit of the check computation of R181: generator polynomial 0x1021. -/
def checkBit (c : BitVec 16) (b : Bool) : BitVec 16 := (c <<< 1) ^^^ (if c.msb != b then 0x1021#16 else 0#16)

/-- The check word of bytes (R181): initial value 0xFFFF, most significant bit first, no final inversion. -/
def checkWord (bytes : List Byte) : BitVec 16 := (bitsOf bytes).foldl checkBit 0xFFFF#16

/-! ### Stuff bits and the row frame's envelope (R181) -/

/-- The bits with stuff bits put in, after a run of `run` bits of one level: five of one level are followed by one of the
other, which counts towards the next run (log 26). -/
def stuffFrom (level : Bool) (run : Nat) : List Bool → List Bool
  | [] => if run = 5 then [!level] else []
  | b :: rest =>
    if run = 5 then (!level) :: b :: stuffFrom b (if b = !level then 2 else 1) rest
    else b :: stuffFrom b (if b = level then run + 1 else 1) rest

/-- The bits with stuff bits taken out; none where a stuff bit was due and did not come. -/
def unstuffFrom (level : Bool) (run : Nat) : List Bool → Option (List Bool)
  | [] => if run = 5 then none else some []
  | b :: rest =>
    if run = 5 then if b = level then none else unstuffFrom b 1 rest
    else (unstuffFrom b (if b = level then run + 1 else 1) rest).map (fun bits => b :: bits)

/-- The levels of a frame from its start bit to its last bit before the veto slot, `true` for idle. -/
def lineLevels (bytes : List Byte) : List Bool :=
  stuffFrom true 0 (false :: bitsOf (bytes ++ beBytes 2 (checkWord bytes).toNat))

/-- The envelope of the bytes before the check word is sound: their number is the one byte 4 gives, the destination form
is not 3, and the bits stated as 0 in bytes 2 and 3 are 0. -/
def envelopeSound (bytes : List Byte) : Bool :=
  let form := field bytes 2 1 / 64
  bytes.length == 5 + field bytes 4 1 && form != 3 && field bytes 2 1 / 32 % 2 == 0
    && (form != 2 || field bytes 2 1 % 32 == 0)
    && (if form == 1 then field bytes 3 1 / 32 == 0 else field bytes 3 1 == 0)

/-- A frame read with these levels is damaged (R40, R181). -/
def damaged (levels : List Bool) : Bool :=
  match unstuffFrom true 0 levels with
  | some (false :: bits) =>
    let all := bytesOfBits bits
    let bytes := all.take (all.length - 2)
    !(bits.length == 8 * all.length && 7 ≤ all.length && envelopeSound bytes
      && field all (all.length - 2) 2 == (checkWord bytes).toNat)
  | _ => true

/-! ### Payloads of frames taken (R182) -/

/-- A token ID of a frame: 0 is out of range (R1, R17; log 32). -/
def tokenAt (bytes : List Byte) (start : Nat) : Option TokenId :=
  if field bytes start 8 = 0 then none else some (BitVec.ofNat 64 (field bytes start 8))

/-- A stamp of a frame. -/
def stampAt (bytes : List Byte) (start : Nat) : Stamp := BitVec.ofNat 32 (field bytes start 4)

/-- A bay byte. -/
def bayAt (bytes : List Byte) (start : Nat) : Option Bay :=
  if h : field bytes start 1 < 4 then some ⟨field bytes start 1, h⟩ else none

/-- A station address byte. -/
def addrAt (bytes : List Byte) (start : Nat) : Option Addr :=
  if field bytes start 1 < 32 then some (BitVec.ofNat 5 (field bytes start 1)) else none

/-- A REVOKE payload. -/
def readRevoke (p : List Byte) : Option (TokenId × Stamp) :=
  if p.length = 12 then (tokenAt p 0).map (fun t => (t, stampAt p 8)) else none

/-- A BEACON payload: the site time. -/
def readBeacon (p : List Byte) : Option Stamp := if p.length = 4 then some (stampAt p 0) else none

/-- An OBJECT payload: token and objected claimant. Its reason is tested and not used (R70). -/
def readObject (p : List Byte) : Option (TokenId × Addr) :=
  if p.length = 10 ∧ 1 ≤ field p 9 1 ∧ field p 9 1 ≤ 3 then
    match tokenAt p 0, addrAt p 8 with
    | some t, some c => some (t, c)
    | _, _ => none
  else none

/-- A CLAIM payload: token, claimant bay, expiry. -/
def readClaim (p : List Byte) : Option (TokenId × Bay × Stamp) :=
  if p.length = 13 then
    match tokenAt p 0, bayAt p 8 with
    | some t, some b => some (t, b, stampAt p 9)
    | _, _ => none
  else none

/-- A LAPSE payload: the token. Its reason is tested and not used (R72). -/
def readLapse (p : List Byte) : Option TokenId :=
  if p.length = 9 ∧ 1 ≤ field p 8 1 ∧ field p 8 1 ≤ 3 then tokenAt p 0 else none

/-- A JOIN payload. -/
def readJoin (p : List Byte) : Option Unit := if p.length = 0 then some () else none

/-- An optional field announced by a presence bit (R182): the byte is in range when present and 0 when absent. -/
def readOptional {α : Type} (present : Bool) (raw : Nat) (value : Option α) : Option (Option α) :=
  if present then value.map some else if raw = 0 then some none else none

/-- What follows the code of an ACTION payload: the bay argument. -/
def readAction (p : List Byte) : Option (Option Bay) :=
  if p.length = 2 ∧ field p 0 1 ≤ 1 then readOptional (field p 0 1 == 1) (field p 1 1) (bayAt p 1) else none

/-- A transfer status code (R182). -/
def transferStatusOf : Nat → Option TransferStatus
  | 1 => some .claimed
  | 2 => some .void
  | 3 => some .revoked
  | _ => none

/-- A dump entry of 16 bytes (R182). -/
def readDumpEntry (e : List Byte) : Option DumpEntry :=
  let flags := field e 9 1
  if e.length = 16 ∧ flags ≤ 3 then
    match tokenAt e 0, transferStatusOf (field e 8 1), readOptional (flags % 2 == 1) (field e 10 1) (addrAt e 10),
        readOptional (flags / 2 == 1) (field e 11 1) (bayAt e 11) with
    | some t, some status, some claimant, some bay =>
      if status = .revoked ∧ flags ≠ 0 then none else some ⟨t, status, claimant, bay, stampAt e 12⟩
    | _, _, _, _ => none
  else none

/-- `n` dump entries one after another. -/
def readDumpEntries : Nat → List Byte → Option (List DumpEntry)
  | 0, rest => if rest.length = 0 then some [] else none
  | n + 1, bytes =>
    match readDumpEntry (bytes.take 16), readDumpEntries n (bytes.drop 16) with
    | some e, some es => some (e :: es)
    | _, _ => none

/-- A DUMP payload: sequence and entries. -/
def readDump (p : List Byte) : Option (Nat × List DumpEntry) :=
  let n := field p 1 1
  if 2 ≤ p.length ∧ field p 0 1 ≤ 63 ∧ 1 ≤ n ∧ n ≤ 4 then
    (readDumpEntries n (p.drop 2)).map (fun es => (field p 0 1, es))
  else none

/-- A DUMP-END payload: frame count, entry count, dumper stamp. The presence bit must agree with the stamp state. -/
def readDumpEnd (p : List Byte) : Option (Nat × Nat × Option Stamp) :=
  let state := field p 3 1
  if p.length = 9 ∧ field p 0 1 ≤ 64 ∧ field p 1 2 ≤ 256 ∧ state ≤ 2 ∧ field p 4 1 ≤ 1
      ∧ (field p 4 1 = 1 ↔ state ≠ 0) then
    (readOptional (field p 4 1 == 1) (field p 5 4) (some (stampAt p 5))).map (fun st => (field p 0 1, field p 1 2, st))
  else none

/-- A LOG-FETCH payload: segment, start index, count. -/
def readLogFetch (p : List Byte) : Option (Byte × Nat × Nat) :=
  if p.length = 4 ∧ field p 0 1 ≤ 7 ∧ field p 1 2 ≤ 1023 ∧ 1 ≤ field p 3 1 ∧ field p 3 1 ≤ 8 then
    some (BitVec.ofNat 8 (field p 0 1), field p 1 2, field p 3 1)
  else none

/-- A STATUS-QUERY payload: the take-attention flag. -/
def readStatusQuery (p : List Byte) : Option Bool :=
  if p.length = 1 ∧ field p 0 1 ≤ 1 then some (field p 0 1 == 1) else none

/-- A LOG-CLEAR payload: the segment. -/
def readLogClear (p : List Byte) : Option Byte :=
  if p.length = 1 ∧ field p 0 1 ≤ 7 then some (BitVec.ofNat 8 (field p 0 1)) else none

/-! ### Tap link and bike tag (R183, R184) -/

/-- The token record in the 29 bytes of a PRESENT (R183). -/
def readToken (r : List Byte) : Token :=
  { id := BitVec.ofNat 64 (field r 0 8)
    site := BitVec.ofNat 16 (field r 8 2)
    targetPost := BitVec.ofNat 8 (field r 10 1)
    targetBay := BitVec.ofNat 8 (field r 11 1)
    classHigh := BitVec.ofNat 4 (field r 12 1 / 16)
    cls := BitVec.ofNat 4 (field r 12 1 % 16)
    notBefore := stampAt r 13
    notAfter := stampAt r 17
    check := BitVec.ofNat 64 (field r 21 8) }

/-- The link check of a PRESENT (R183): the length byte 31 and the bytes after it sum to 0 modulo 256, and the type byte
is 1. `none` where it fails. -/
def readPresent (bytes : List Byte) : Option Token :=
  if bytes.length = 31 ∧ (31 + (bytes.map BitVec.toNat).sum) % 256 = 0 ∧ field bytes 0 1 = 1 then
    some (readToken ((bytes.drop 1).take 29))
  else none

/-- Bytes 0 to 20 of the token record as received, over which the keyed code is computed (R8, R183). -/
def Token.checkedBits (t : Token) : BitVec 168 :=
  t.id ++ t.site ++ t.targetPost ++ t.targetBay ++ (t.classHigh ++ t.cls) ++ t.notBefore ++ t.notAfter

/-- A bike tag's answer (R184): `none` when the attempt is unread. -/
def readTag (answer : List Byte) : Option (BikeId × BikeClass) :=
  if answer.length = 6 ∧ answer.foldl (fun x b => x ^^^ b) 0x5A#8 = 0#8 ∧ field answer 0 4 ≠ 0 ∧ field answer 4 1 ≤ 3 then
    some (BitVec.ofNat 32 (field answer 0 4), BitVec.ofNat 2 (field answer 4 1))
  else none

/-! ### The configuration record (R139, R174, R186) -/

/-- A sensor code (R186). -/
def sensorOf : Nat → Sensor
  | 0 => .presence
  | 1 => .seat
  | 2 => .home
  | _ => .clear

/-- The profile step in 4 bytes (R186). The level bit of an EDGE step, to which R136 gives no level, is not read (log 37). -/
def readStep (r : List Byte) : Step :=
  let n := field r 2 1
  let sensor := sensorOf (field r 1 1 / 16 % 4)
  let level := field r 1 1 % 2 == 1
  { action :=
      match field r 0 1 / 64 with
      | 0 => .out n
      | 1 => .inward n
      | 2 => .dwell n
      | _ => .sense
    fromClearPoint := field r 0 1 / 32 % 2 == 1
    mode :=
      match field r 1 1 / 64 with
      | 0 => .plain
      | 1 => .stopWhen sensor level
      | 2 => .untilSees sensor level (field r 3 1)
      | _ => .edge sensor (field r 3 1) }

/-- The step's bytes are in range (R186): the bits stated as 0 are 0, the limit byte is 0 under PLAIN and STOP-WHEN, and
byte 2 of a SENSE step is 0. -/
def stepBytesInRange (r : List Byte) : Bool :=
  field r 0 1 % 32 == 0 && field r 1 1 / 2 % 8 == 0 && (field r 1 1 / 64 ≥ 2 || field r 3 1 == 0)
    && (field r 0 1 / 64 != 3 || field r 2 1 == 0)

/-- The step-field test of R139: the counts, times and limits a step needs are 1 to 255. -/
def Step.fieldsInRange (st : Step) : Bool :=
  (match st.action with
   | .out n => 1 ≤ n && n ≤ 255
   | .inward n => 1 ≤ n && n ≤ 255
   | .dwell t => 1 ≤ t && t ≤ 255
   | .sense => true)
  && (match st.mode with
      | .untilSees _ _ limit => 1 ≤ limit && limit ≤ 255
      | .edge _ limit => 1 ≤ limit && limit ≤ 255
      | .plain => true
      | .stopWhen _ _ => true)

/-- The action-and-mode test of R139. -/
def Step.combines (st : Step) : Bool :=
  match st.mode with
  | .plain =>
    match st.action with
    | .out _ => true
    | .inward _ => true
    | .dwell _ => !st.fromClearPoint
    | .sense => false
  | .stopWhen _ _ =>
    match st.action with
    | .out _ => true
    | .inward _ => true
    | .dwell _ => !st.fromClearPoint
    | .sense => !st.fromClearPoint
  | .untilSees _ _ _ =>
    !st.fromClearPoint && (st.action == .out 1 || st.action == .inward 1 || st.action == .sense)
  | .edge _ _ => !st.fromClearPoint && st.action == .out 1

/-- The step moves the bolt outward. -/
def Step.isOut (st : Step) : Bool :=
  match st.action with
  | .out _ => true
  | .inward _ => false
  | .dwell _ => false
  | .sense => false

/-- An UNTIL step on home asserted with the action IN 1: the anchor of R137 and the step R139 asks of HOME. -/
def Step.isAnchor (st : Step) : Bool :=
  match st.mode with
  | .untilSees .home true _ => st.action == .inward 1
  | _ => false

/-- The edge-anchor test of R139. `outs` bounds the OUT bolt steps made since the anchor, `none` where there is no anchor
that an EDGE step may use. -/
def edgesAnchored (outs : Option Nat) : List Step → Bool
  | [] => true
  | st :: rest =>
    match st.mode with
    | .edge _ limit =>
      match outs with
      | some k => decide (k + limit ≤ 255) && edgesAnchored (some (k + limit)) rest
      | none => false
    | .untilSees _ _ limit =>
      if st.isAnchor then edgesAnchored (some 0) rest
      else
        match st.action with
        | .out _ => edgesAnchored (outs.map (fun k => k + limit)) rest
        | .inward _ => edgesAnchored none rest
        | .dwell _ => edgesAnchored outs rest
        | .sense => edgesAnchored outs rest
    | _ =>
      match st.action with
      | .out n => edgesAnchored (if st.fromClearPoint then none else outs.map (fun k => k + n)) rest
      | .inward _ => edgesAnchored none rest
      | .dwell _ => edgesAnchored outs rest
      | .sense => edgesAnchored outs rest

/-- The direction and home-profile tests of R139 for one role. -/
def roleAdmits (role : Role) (profile : List Step) : Bool :=
  match role with
  | .release | .serviceOpen => profile.any Step.isOut
  | .relatch | .patrol | .serviceClose => !profile.any Step.isOut
  | .home => !profile.any Step.isOut && profile.any Step.isAnchor

/-- The roles, in the order of the role map (R186). -/
def allRoles : List Role := [.release, .relatch, .home, .patrol, .serviceOpen, .serviceClose]

/-- The bytes of the steps of a profile slot of 49 bytes: its step count times four, from its second byte on. -/
def slotSteps (slot : List Byte) : List (List Byte) :=
  (List.range (min (field slot 0 1) 12)).map (fun i => (slot.drop (1 + 4 * i)).take 4)

/-- The 49 bytes of profile slot `i` of the record. -/
def slotBytes (r : List Byte) (i : Nat) : List Byte := (r.drop (28 + 49 * i)).take 49

/-- The slot named for a role passes R139's tests of length, step fields, action and mode, direction, home and edge. -/
def slotServes (slot : List Byte) (role : Role) : Bool :=
  let steps := (slotSteps slot).map readStep
  1 ≤ field slot 0 1 && field slot 0 1 ≤ 12 && (slotSteps slot).all stepBytesInRange && steps.all Step.fieldsInRange
    && steps.all Step.combines && roleAdmits role steps && edgesAnchored none steps

/-- The cold mode bits (R186), other than 3. -/
def coldModeOf : Nat → ColdMode
  | 1 => .auto
  | 2 => .always
  | _ => .off

/-- The fields of the record (R186), whatever its validity. -/
def readImage (r : List Byte) : Image :=
  let options := field r 18 1
  { site := BitVec.ofNat 16 (field r 0 2)
    gateway := BitVec.ofNat 5 (field r 2 1)
    baysFitted := field r 3 1
    settleMs := 100 * field r 4 1
    takeS := field r 5 1
    skewS := field r 6 2
    beaconLossMin := field r 8 1
    joinWindowS := field r 9 1
    dumpStaggerMs := field r 10 1
    actionStaggerMs := field r 11 2
    actionMask := BitVec.ofNat 16 (field r 13 2)
    notices := options % 2 == 1
    noticeDest := BitVec.ofNat 5 (field r 15 1)
    attentionMask := BitVec.ofNat 16 (field r 16 2)
    segments := field r 19 1
    clearMode := if options / 2 % 2 = 1 then .explicit else .auto
    patrolMin := field r 20 1
    coldMode := coldModeOf (options / 8 % 4)
    coldSensor := options / 4 % 2 == 1
    stepMs := field r 21 1
    roles := ⟨field r 22 1, field r 23 1, field r 24 1, field r 25 1, field r 26 1, field r 27 1⟩
    profiles := (List.range 8).map (fun i => (slotSteps (slotBytes r i)).map readStep)
    siteKey := BitVec.ofNat 128 (field r 420 16) }

/-- A number lies in a range. -/
def within (low n high : Nat) : Bool := decide (low ≤ n) && decide (n ≤ high)

/-- Every field outside the profiles lies in its range (R174, R186). -/
def fieldsInRange (r : List Byte) : Bool :=
  within 0 (field r 0 2) 65534 && within 0 (field r 2 1) 31 && within 1 (field r 3 1) 4 && within 2 (field r 4 1) 30
    && within 10 (field r 5 1) 120 && within 0 (field r 6 2) 300 && within 1 (field r 8 1) 60 && within 2 (field r 9 1) 30
    && within 5 (field r 10 1) 100 && within 0 (field r 11 2) 500 && within 0 (field r 13 2) 4095
    && within 0 (field r 15 1) 31 && within 0 (field r 16 2) 511 && field r 18 1 / 32 == 0 && field r 18 1 / 8 % 4 != 3
    && [1, 2, 4, 8].contains (field r 19 1) && within 0 (field r 20 1) 240 && within 2 (field r 21 1) 20

/-- The profile tests of R139 for the slots the roles name. -/
def profilesPass (r : List Byte) : Bool :=
  allRoles.all (fun role =>
    let slot := (readImage r).roles.slot role
    decide (slot ≤ 7) && slotServes (slotBytes r slot) role)

/-- No illegal combination of R174 holds, the profile tests apart. -/
def combinationsLegal (strap : Addr) (i : Image) : Bool :=
  !(i.coldMode == .auto && !i.coldSensor) && i.gateway != strap && !(i.notices && i.noticeDest == strap)

/-- A whole record whose check word matches, whose fields are in range and in which no illegal combination holds. -/
def recordValid (strap : Addr) (r : List Byte) : Bool :=
  r.length == Config.recordBytes && (checkWord (r.take 436)).toNat == field r 436 2 && fieldsInRange r && profilesPass r
    && combinationsLegal strap (readImage r)

/-- R174: the image of a valid record; `none` when the read failed or the record is invalid. A memory that delivers more
than the record's bytes has the rest unread (log 27). -/
def imageOf (strap : Addr) (memory : Option (List Byte)) : Option Image :=
  match memory with
  | some bytes =>
    let r := bytes.take Config.recordBytes
    if recordValid strap r then some (readImage r) else none
  | none => none

/-! ### What the post sends -/

/-- The order of the bay states in R113. -/
def BayState.code : BayState → Nat
  | .absent => 0
  | .calibrating => 1
  | .empty => 2
  | .docking => 3
  | .docked => 4
  | .reserved => 5
  | .releasing => 6
  | .opened => 7
  | .relatching => 8
  | .reopening => 9
  | .serviceOpen => 10
  | .faulted => 11

/-- Post mode codes (R182). -/
def PostMode.code : PostMode → Nat
  | .starting => 0
  | .configFault => 1
  | .joining => 2
  | .service => 3
  | .hold => 4
  | .closing => 5
  | .maintenance => 6

/-- Stamp state codes (R182). -/
def StampState.code : StampState → Nat
  | .unset => 0
  | .set => 1
  | .stale => 2

/-- Attention codes in the order of R161 (R182). -/
def Code.number : Code → Nat
  | .forcedRemoval => 1
  | .latchFail => 2
  | .homeNotFound => 3
  | .driverFault => 4
  | .duplicateAddress => 5
  | .tagUnread => 6
  | .lateObjection => 7
  | .revokedLate => 8
  | .tablePressure => 9
  | .objectionDropped => 10
  | .frameDropped => 11
  | .storeBlocked => 12
  | .stampStale => 13
  | .coldJoin => 14
  | .clockAhead => 15
  | .actionDropped => 16

/-- Kind codes (R182). -/
def FrameKind.code : FrameKind → Nat
  | .object => 1
  | .claim => 2
  | .lapse => 3
  | .revoke => 4
  | .beacon => 5
  | .action => 6
  | .join => 7
  | .dump => 8
  | .dumpEnd => 9
  | .logFetch => 10
  | .statusQuery => 11
  | .logClear => 12
  | .logReady => 13
  | .logData => 14
  | .statusReply => 15
  | .notice => 16

/-- Verdict codes (R183). -/
def Verdict.code : Verdict → Nat
  | .granted _ => 1
  | .malformed => 2
  | .wrongSite => 3
  | .wrongPost => 4
  | .noTime => 5
  | .tooEarly => 6
  | .expired => 7
  | .postClosed => 8
  | .logFull => 9
  | .busy => 10
  | .badCheck => 11
  | .revoked => 12
  | .spent => 13
  | .noBike => 14
  | .claimedElsewhere => 15
  | .objected => 16
  | .lineFault => 17
  | .bayFault => 18

/-- Indication codes (R183). -/
def Indication.code : Indication → Nat
  | .opened => 1
  | .shut => 2
  | .fault => 3

/-- OBJECT reason codes (R182). -/
def ObjectReason.code : ObjectReason → Nat
  | .spent => 1
  | .void => 2
  | .revoked => 3

/-- LAPSE reason codes (R182). -/
def LapseReason.code : LapseReason → Nat
  | .notTaken => 1
  | .relatchAction => 2
  | .noBay => 3

/-- Transfer status codes (R182). -/
def TransferStatus.code : TransferStatus → Nat
  | .claimed => 1
  | .void => 2
  | .revoked => 3

/-- Refusal reason codes (R182). -/
def Refused.code : Refused → Nat
  | .range => 1
  | .notReady => 2

/-- The lapse reason a relatch cause gives (R127). -/
def RelatchCause.reason : RelatchCause → LapseReason
  | .notTaken => .notTaken
  | .relatchAction => .relatchAction

/-- An absent field is 0 (R182). -/
def orZero {n : Nat} (x : Option (BitVec n)) : Nat := (x.map BitVec.toNat).getD 0

/-- An attention entry in 9 bytes (R182): class codes are 0 FAULT, 1 WARN, 2 INFO. -/
def Attention.bytes (a : Attention) : List Byte :=
  beBytes 1 a.source.number ++ beBytes 1 a.code.number ++ beBytes 1 (2 - a.code.weight) ++ beBytes 1 (flag a.stamp.isSome)
    ++ beBytes 4 (orZero a.stamp) ++ beBytes 1 a.count

/-- A dump entry in 16 bytes (R182). -/
def DumpEntry.bytes (e : DumpEntry) : List Byte :=
  beBytes 8 e.token.toNat ++ beBytes 1 e.status.code ++ beBytes 1 (flag e.claimant.isSome + 2 * flag e.bay.isSome)
    ++ beBytes 1 (orZero e.claimant) ++ beBytes 1 ((e.bay.map Fin.val).getD 0) ++ beBytes 4 e.expiry.toNat

/-- A bay summary in 7 bytes (R182). -/
def BaySummary.bytes (b : BaySummary) : List Byte :=
  beBytes 1 b.state.code ++ beBytes 1 (flag b.bikeId.isSome) ++ beBytes 4 (orZero b.bikeId) ++ beBytes 1 b.pending

/-- The kind-dependent fields of a rental record (R148): kind, bay, bike ID, bike class, token, late-take mark,
latch-failed mark, lapse reason code. -/
structure RecordFields where
  kind : Nat
  bay : Option Bay
  bikeId : Option BikeId
  bikeClass : Option BikeClass
  token : Nat
  late : Bool
  latchFailed : Bool
  reason : Nat

/-- The fields of R148 for what a writer handed over. -/
def RecordBody.fields : RecordBody → RecordFields
  | .start b t i c late => ⟨1, some b, i, c, t.toNat, late, false, 0⟩
  | .returned b i c failed => ⟨2, some b, i, c, 0, false, failed, 0⟩
  | .lapse b t i c cause => ⟨3, some b, i, c, t.toNat, false, false, cause.reason.code⟩
  | .noBay t => ⟨3, none, none, none, t.toNat, false, false, LapseReason.noBay.code⟩
  | .resetMark => ⟨4, none, none, none, 0, false, false, 0⟩

/-- A rental record in 23 bytes (R185). -/
def RentalRecord.bytes (r : RentalRecord) : List Byte :=
  let f := r.body.fields
  beBytes 1 f.kind
    ++ beBytes 1 (flag r.stamp.isSome + 2 * flag r.stale + 4 * flag r.held + 8 * flag f.late + 16 * flag f.latchFailed
        + 32 * flag f.bay.isSome + 64 * flag f.bikeId.isSome + 128 * flag f.bikeClass.isSome)
    ++ beBytes 2 r.seq.toNat ++ beBytes 4 (orZero r.stamp) ++ beBytes 1 ((f.bay.map Fin.val).getD 0)
    ++ beBytes 1 (orZero f.bikeClass) ++ beBytes 4 (orZero f.bikeId) ++ beBytes 8 f.token ++ beBytes 1 f.reason

/-- A STATUS-REPLY payload in 48 bytes (R182): the mode alone in CONFIG-FAULT. -/
def statusBytes (mode : PostMode) (body : Option StatusBody) : List Byte :=
  match body with
  | none => beBytes 1 mode.code ++ List.replicate 47 0
  | some b =>
    beBytes 1 mode.code ++ beBytes 1 (1 + 2 * flag b.stamp.isSome + 4 + 8 + 16 + 32 * flag b.attention.isSome)
      ++ beBytes 1 b.stampState.code ++ beBytes 4 (orZero b.stamp)
      ++ b.bays.b0.bytes ++ b.bays.b1.bytes ++ b.bays.b2.bytes ++ b.bays.b3.bytes
      ++ beBytes 1 b.writerSegment ++ [byteOfBits b.flags.reverse] ++ beBytes 1 (flag b.blocked)
      ++ beBytes 1 b.attentionCount
      ++ (match b.attention with
          | some a => a.bytes
          | none => List.replicate 9 0)

/-- The payload of a frame of this post with the contents settled for it (R182). -/
def Frame.payload (f : Frame) (settled : Settled) : List Byte :=
  match f, settled with
  | .object t c reason, _ => beBytes 8 t.toNat ++ beBytes 1 c.toNat ++ beBytes 1 reason.code
  | .claim t b x, _ => beBytes 8 t.toNat ++ beBytes 1 b.val ++ beBytes 4 x.toNat
  | .lapse t reason, _ => beBytes 8 t.toNat ++ beBytes 1 reason.code
  | .join, _ => []
  | .dump, .dump seq entries _ => beBytes 1 seq.toNat ++ beBytes 1 entries.length ++ entries.flatMap DumpEntry.bytes
  | .dump, _ => []
  | .dumpEnd, .dumpEnd frames entries state stamp =>
    beBytes 1 frames ++ beBytes 2 entries ++ beBytes 1 state.code ++ beBytes 1 (flag stamp.isSome) ++ beBytes 4 (orZero stamp)
  | .dumpEnd, _ => []
  | .logReady segment seq, _ => beBytes 1 segment ++ beBytes 2 seq.toNat
  | .logData _ segment start records endOf refusal _, _ =>
    [segment] ++ beBytes 2 start.toNat ++ beBytes 1 records.length ++ beBytes 1 (flag endOf + 2 * flag refusal.isSome)
      ++ beBytes 1 ((refusal.map Refused.code).getD 0) ++ records.flatMap RentalRecord.bytes
  | .statusReply _ _, .status mode body => statusBytes mode body
  | .statusReply _ _, _ => []
  | .notice a, _ => a.bytes

/-- Where a frame of this post goes (R56). -/
def State.destinationOf (s : State) : Frame → Destination
  | .logReady _ _ => .one s.cfg.gateway
  | .logData requester _ _ _ _ _ _ => .one requester
  | .statusReply requester _ => .one requester
  | .notice _ => .one s.cfg.noticeDest
  | .object _ _ _ | .claim _ _ _ | .lapse _ _ | .join | .dump | .dumpEnd => .all

/-- Bytes 2 and 3 of a frame (R181). -/
def destinationBytes : Destination → List Byte
  | .one a => beBytes 1 a.toNat ++ [0]
  | .span b l => beBytes 1 (64 + b.toNat) ++ beBytes 1 l.toNat
  | .all => beBytes 1 128 ++ [0]

/-- The bytes before the check word of a frame of this post (R181). -/
def State.frameBytes (s : State) (f : Frame) (settled : Settled) : List Byte :=
  let payload := f.payload settled
  beBytes 1 (arbitrationValue f.kind.rank s.strap) ++ beBytes 1 f.kind.code ++ destinationBytes (s.destinationOf f)
    ++ beBytes 1 payload.length ++ payload

/-- The levels the post drives for the attempt in flight (R181). -/
def State.attemptLevels (s : State) (a : Attempt) : List Bool :=
  match s.attemptFrame a with
  | some q => lineLevels (s.frameBytes q.frame a.settled)
  | none => []

/-- A message to the reader module after its start marker (R183): length, type, payload, link check. -/
def TapMessage.bytes (m : TapMessage) : List Byte :=
  let body :=
    match m with
    | .verdict v _ =>
      [4#8, 0x81#8] ++ beBytes 1 v.code ++ (match v with
        | .granted b => beBytes 1 b.val
        | _ => [255#8])
    | .bayLight b i => [4#8, 0x82#8] ++ beBytes 1 b.val ++ beBytes 1 i.code
  body ++ beBytes 1 (256 - beNat [body.foldl (fun x y => x + y) 0#8])

end Sys2Proof.Machine
end

