-- ==== Sys2Proof/Machine/Queues.lean ====
section
/-! DEFINITION. Queues: the transmit queues (R37 to R50) and the tap transmit list (R93). -/

namespace Sys2Proof.Machine

/-! ### Transmit queues -/

/-- How many frames stand ahead of a frame of this kind that joins the queue: those of its own or a lower rank (R46). -/
def rankPlace (k : FrameKind) (q : List Queued) : Nat := (q.takeWhile (fun x => x.frame.kind.rank ≤ k.rank)).length

/-- An attempt after its queue gained a frame at place `i`. -/
def Attempt.gained (side : QueueSide) (i : Nat) (a : Attempt) : Attempt :=
  if a.side = side ∧ i ≤ a.place then { a with place := a.place + 1 } else a

/-- An attempt after its queue lost the frame at place `i`, not its own. -/
def Attempt.lost (side : QueueSide) (i : Nat) (a : Attempt) : Attempt :=
  if a.side = side ∧ i < a.place then { a with place := a.place - 1 } else a

/-- R46, R47: a frame joins the protocol queue at its rank with veto count 0, when the queue holds fewer than 12. -/
def State.queueProtocol (s : State) (f : Frame) : State :=
  let q := s.rlc.protocol
  if q.length < Config.protocolCapacity then
    let i := rankPlace f.kind q
    (s.setProtocol (q.take i ++ ⟨f, 0⟩ :: q.drop i)).setAttempt (s.rlc.attempt.map (Attempt.gained .protocol i))
  else s

/-- The service queue has room (R47). -/
def State.serviceRoom (s : State) : Bool := s.rlc.service.length < Config.serviceCapacity

/-- R46, R47: a frame joins the service queue at its tail with veto count 0, when the queue holds fewer than 4. -/
def State.queueService (s : State) (f : Frame) : State :=
  if s.serviceRoom then s.setService (s.rlc.service ++ [⟨f, 0⟩]) else s

/-- The attempt is of this place. -/
def Attempt.at (a : Attempt) (side : QueueSide) (i : Nat) : Bool := a.side == side && a.place == i

/-- R45: the producer removes its first waiting protocol frame that `p` names: at once, or, when it is the attempt in
flight, at the attempt's end. -/
def State.removeProtocol (s : State) (p : Frame → Bool) : State :=
  match s.rlc.protocol.findIdx? (fun x => p x.frame) with
  | none => s
  | some i =>
    match s.rlc.attempt with
    | none => s.setProtocol (s.rlc.protocol.eraseIdx i)
    | some a =>
      if a.at .protocol i then s.setAttempt (some { a with removed := true })
      else (s.setProtocol (s.rlc.protocol.eraseIdx i)).setAttempt (some (a.lost .protocol i))

/-- A queue replaced. -/
def State.setSide (s : State) (side : QueueSide) (q : List Queued) : State :=
  match side with
  | .protocol => s.setProtocol q
  | .service => s.setService q

/-- The attempt's frame leaves its queue and the attempt ends (R42, R44). -/
def State.dropAttempt (s : State) (a : Attempt) : State :=
  (s.setSide a.side ((s.side a.side).eraseIdx a.place)).setAttempt none

/-- The attempt's frame stays at its place with its veto count raised, and the attempt ends (R44). -/
def State.countVeto (s : State) (a : Attempt) : State :=
  (s.setSide a.side ((s.side a.side).modify a.place (fun q => { q with vetoes := q.vetoes + 1 }))).setAttempt none

/-! ### Tap transmit list -/

/-- The link transmitter, when idle, takes the oldest message of the list (R93; log 8). -/
def TapLink.start (l : TapLink) : TapLink :=
  match l.sending, l.list with
  | none, m :: rest => ⟨rest, some m⟩
  | _, _ => l

/-- The message is a BAY-LIGHT for the bay. -/
def TapMessage.lightOf (b : Bay) : TapMessage → Bool
  | .bayLight c _ => c == b
  | .verdict _ _ => false

/-- The message is an answer to a second presentation. -/
def TapMessage.answersSecond : TapMessage → Bool
  | .verdict _ .second => true
  | _ => false

/-- The message is the VERDICT of the running transaction. -/
def TapMessage.answersTransaction : TapMessage → Bool
  | .verdict _ .transaction => true
  | _ => false

/-- R93: a message is placed in the list. -/
def State.placeMessage (s : State) (m : TapMessage) : State := s.setLink { s.link with list := s.link.list ++ [m] }.start

/-- R93: a BAY-LIGHT takes the place of a waiting one for its bay. -/
def State.placeLight (s : State) (b : Bay) (i : Indication) : State :=
  if s.link.list.any (TapMessage.lightOf b) then
    s.setLink { s.link with list := s.link.list.map (fun m => if m.lightOf b then .bayLight b i else m) }
  else s.placeMessage (.bayLight b i)

/-- R93, R98: an answer to a second presentation is placed only while the list holds fewer than 3 of them. -/
def State.answerSecond (s : State) (v : Verdict) : State :=
  if (s.link.list.filter TapMessage.answersSecond).length < Config.secondAnswers then s.placeMessage (.verdict v .second)
  else s

/-- R109: the transaction ends with this verdict. -/
def State.endTransaction (s : State) (v : Verdict) : State :=
  (s.setTap { s.tap with phase := .verdict, verdict := some v }).placeMessage (.verdict v .transaction)

end Sys2Proof.Machine
end

