-- ==== Sys2Proof/Machine/Attention.lean ====
section
/-! DEFINITION. Attention: raising codes, the waiting set and NOTICE offers (R160 to R165). -/

namespace Sys2Proof.Machine

/-- A repeat counted (R161): it stays at 255. -/
def Attention.again (a : Attention) : Attention := { a with count := min Config.repeatMax (a.count + 1) }

/-- The queue replaced. -/
def State.setEntries (s : State) (q : List QueuedAttention) : State := s.setAq { s.aq with queue := q }

/-- R163: every condition of a NOTICE offer but the oldest entry's presence. -/
def State.offersNotice (s : State) : Bool :=
  s.mode.working && s.cfg.notices && !s.aq.hush && !holdsKind .notice s.rlc.service

/-- R163: a NOTICE offer is tested, and made when its conditions hold. -/
def State.offerNotice (s : State) : State :=
  match s.aq.queue with
  | [] => s
  | e :: rest =>
    if s.offersNotice && s.serviceRoom then (s.queueService (.notice e.att)).setEntries ({ e with noticed := true } :: rest)
    else s

/-- An entry is placed at the queue's tail, and an offer is tested (R161, R162, R163). -/
def State.enterAttention (s : State) (a : Attention) : State := (s.setEntries (s.aq.queue ++ [⟨a, false⟩])).offerNotice

/-- R161: a code is raised on a source. Nothing is recorded through STARTING and CONFIG-FAULT (R160). -/
def State.raise (s : State) (src : Source) (code : Code) : State :=
  if !s.mode.working || s.masked src then s
  else if s.aq.queue.any (fun e => e.att.isPair src code) then
    s.setEntries (s.aq.queue.map (fun e => if e.att.isPair src code then { e with att := e.att.again } else e))
  else if s.aq.waiting.any (fun a => a.isPair src code) then
    s.setAq { s.aq with waiting := s.aq.waiting.map (fun a => if a.isPair src code then a.again else a) }
  else if s.aq.queue.length < Config.attentionCap then s.enterAttention ⟨src, code, s.ssu.stamp, 1⟩
  else s.setAq { s.aq with waiting := s.aq.waiting ++ [⟨src, code, s.ssu.stamp, 1⟩] }

/-- R162: the highest waiting record, the one made first among equals. -/
def highest : List Attention → Option Attention
  | [] => none
  | a :: rest =>
    match highest rest with
    | some b => if b.above a then some b else some a
    | none => some a

/-- R162: the highest waiting record enters the queue, once an entry has left it. -/
def State.promote (s : State) : State :=
  if s.aq.queue.length < Config.attentionCap then
    match highest s.aq.waiting with
    | some a =>
      (s.setAq { s.aq with waiting := s.aq.waiting.filter (fun w => !w.isPair a.source a.code) }).enterAttention a
    | none => s
  else s

/-- R164: at a NOTICE's echo the marked entry, if there is one, leaves; then a fresh offer is tested. -/
def State.noticeSent (s : State) : State :=
  if s.aq.queue.any (fun e => e.noticed) then
    ((s.setEntries (s.aq.queue.filter (fun e => !e.noticed))).promote).offerNotice
  else s.offerNotice

/-- The noticed marks cleared (R160, R164). -/
def State.clearNoticed (s : State) : State := s.setEntries (s.aq.queue.map (fun e => { e with noticed := false }))

/-- R167: the oldest entry leaves at the echo of the STATUS-REPLY that carried it. -/
def State.takeOldest (s : State) : State := ((s.setEntries s.aq.queue.tail).promote).offerNotice

end Sys2Proof.Machine
end

