-- ==== Sys2Proof/Machine/Table.lean ====
section
/-! DEFINITION. Table: the operations on the Claim Table (R19 to R31) and on the stamp (R13 to R16). -/

namespace Sys2Proof.Machine

/-- The entry for the token is changed by `f`, or removed where `f` gives none; every other place is left (R25, R27). -/
def State.updateEntry (s : State) (t : TokenId) (f : Entry → Option Entry) : State :=
  s.setTable (s.table.map (fun slot => if holdsToken t slot then slot.bind f else slot))

/-- R22: the index and expiry of the evictable entry whose expiry is earliest, the lowest index among equals. -/
def earliestEvictable : List (Option Entry) → Option (Nat × Stamp)
  | [] => none
  | slot :: rest =>
    let later := (earliestEvictable rest).map (fun p => (p.1 + 1, p.2))
    match slot with
    | none => later
    | some e =>
      if e.status.evictable then
        match later with
        | some p => if p.2.toNat < e.expiry.toNat then some p else some (0, e.expiry)
        | none => some (0, e.expiry)
      else later

/-- R19, R21, R22: an entry is inserted for a token the table does not hold, at the lowest free index, evicting in a full
table. A full table with nothing evictable cannot arise (R23); it is left as it is (log 20). -/
def State.insertEntry (s : State) (e : Entry) : State :=
  if (s.entry e.token).isSome then s
  else
    match s.table.findIdx? Option.isNone with
    | some i => s.setTable (s.table.set i (some e))
    | none =>
      match earliestEvictable s.table with
      | some (i, _) => (s.setTable (s.table.set i (some e))).raise .table .tablePressure
      | none => s

/-- R26: the expiry sweep with a stamp. -/
def State.sweep (s : State) (stamp : Stamp) : State :=
  s.setTable (s.table.map (fun slot => slot.filter (fun e => !(e.status.evictable && e.expiry.toNat < stamp.toNat))))

/-- The entry made REVOKED (R27). -/
def Entry.revoke (e : Entry) (expiry : Stamp) : Entry :=
  { e with status := .revoked, claimant := none, bay := none, expiry := laterStamp e.expiry expiry }

/-- R29: what an incoming dump entry makes of the entry for its token. -/
def Entry.merge (e : Entry) (d : DumpEntry) : Entry :=
  match e.status, d.status with
  | .peerClaimed, .revoked => e.revoke d.expiry
  | .peerClaimed, .void => { e with status := .void }
  | .void, .revoked => e.revoke d.expiry
  | .revoked, .revoked => e.revoke d.expiry
  | _, _ => e

/-- R21: the entry a dump entry is inserted as. -/
def DumpEntry.inserted (d : DumpEntry) : Entry :=
  match d.status with
  | .claimed => ⟨d.token, .peerClaimed, d.claimant, d.bay, d.expiry, false⟩
  | .void => ⟨d.token, .void, d.claimant, d.bay, d.expiry, false⟩
  | .revoked => ⟨d.token, .revoked, none, none, d.expiry, false⟩

/-- R29: one dump entry is merged. -/
def State.merge (s : State) (d : DumpEntry) : State :=
  if (s.entry d.token).isSome then s.updateEntry d.token (fun e => some (e.merge d)) else s.insertEntry d.inserted

/-- R84: an entry converted for a dump. A dump never meets OWN-PENDING (R83; log 20). -/
def Entry.transfer (strap : Addr) (e : Entry) : DumpEntry :=
  match e.status with
  | .ownPending | .ownSettling | .ownHeld | .ownTaken => ⟨e.token, .claimed, some strap, e.bay, e.expiry⟩
  | .peerClaimed => ⟨e.token, .claimed, e.claimant, e.bay, e.expiry⟩
  | .void => ⟨e.token, .void, e.claimant, e.bay, e.expiry⟩
  | .revoked => ⟨e.token, .revoked, none, none, e.expiry⟩

/-- The occupied places of a table from an index on, lowest first. -/
def occupiedFrom (start : Nat) (table : List (Option Entry)) : List (Nat × Entry) :=
  ((table.zipIdx).drop start).filterMap (fun p => p.1.map (fun e => (p.2, e)))

/-- R31, R84: up to 4 entries from a cursor on, converted, and the cursor after the read. -/
def State.readTable (s : State) : Cursor → List DumpEntry × Cursor
  | .atEnd => ([], .atEnd)
  | .index start =>
    let found := occupiedFrom start s.table
    let taken := found.take Config.dumpEntries
    let next :=
      if found.length ≤ Config.dumpEntries then Cursor.atEnd
      else match taken.getLast? with
        | some p => .index (p.1 + 1)
        | none => .atEnd
    (taken.map (fun p => p.2.transfer s.strap), next)

/-- R16: a new stamp value, with the sweep it runs. -/
def State.newStamp (s : State) (stamp : Stamp) : State := (s.setSsu { s.ssu with stamp := some stamp }).sweep stamp

/-- The configured beacon-loss timeout, in ms (R14). -/
def State.beaconLossMs (s : State) : Nat := 60000 * s.cfg.beaconLossMin

/-- R13, R15: a stamp is taken, with the state SET and both timers started. -/
def State.takeStamp (s : State) (stamp : Stamp) : State :=
  (s.setSsu ⟨some stamp, .set, some s.beaconLossMs, some Config.secondMs⟩).sweep stamp

end Sys2Proof.Machine
end

