-- ==== Sys2Proof/Machine/Drive.lean ====
section
/-! DEFINITION. Drive: the Drive Arbiter and the start of a run (R115, R138, R140, R144 to R146). -/

namespace Sys2Proof.Machine

/-- R138: the limit of an UNTIL step on home asserted raised by the home seek limit. -/
def Step.raised (st : Step) : Step :=
  match st.mode with
  | .untilSees .home true limit => { st with mode := .untilSees .home true (limit + Config.homeSeek) }
  | _ => st

/-- R117: the one step of the calibration opening. -/
def openingSteps : List Step := [⟨.out 1, false, .edge .clear Config.openingLimit⟩]

/-- R134, R138: the steps a request runs. -/
def Image.stepsFor (i : Image) (run : RunFor) : List Step :=
  match run with
  | .opening => openingSteps
  | .role role =>
    let steps := i.profiles.getD (i.roles.slot role) []
    if role = .home then steps.map Step.raised else steps

/-- R115: whether a run granted now is cold. -/
def State.coldNow (s : State) : Bool :=
  match s.cfg.coldMode with
  | .always => true
  | .auto => s.cold
  | .off => false

/-- R140: the run that starts at the grant of a request. -/
def State.startedRun (s : State) (r : Request) : Run :=
  { bay := r.bay, run := r.run, steps := s.cfg.stepsFor r.run, clearPoint := (s.bay r.bay).clearPoint, cold := s.coldNow,
    index := 0, made := 0, edge := .seekLow, outs := 0, measured := none, stop := false }

/-- R146: while the drive is FREE, the head of the list is granted and its run starts. -/
def State.grant (s : State) : State :=
  match s.drive.holder, s.drive.waiting with
  | none, r :: rest => (s.setDrive ⟨rest, some r.bay⟩).setRun (some (s.startedRun r))
  | _, _ => s

/-- R145: a bay requests a run; one with a request waiting or a run running makes no further request. -/
def State.requestRun (s : State) (b : Bay) (run : RunFor) : State :=
  if s.wantsDrive b then s else (s.setDrive { s.drive with waiting := s.drive.waiting ++ [⟨b, run⟩] }).grant

/-- R145: a bay's waiting request is withdrawn. -/
def State.withdraw (s : State) (b : Bay) : State :=
  s.setDrive { s.drive with waiting := s.drive.waiting.filter (fun r => r.bay != b) }

end Sys2Proof.Machine
end

