-- ==== Sys2Proof/Machine/Store.lean ====
section
/-! DEFINITION. Store: writing records, BLOCKED, and the pending lists (R149 to R152). -/

namespace Sys2Proof.Machine

/-- The writer stands on the last slot of its segment. -/
def State.atSegmentEnd (s : State) : Bool := s.store.writer % s.segmentSize == s.segmentSize - 1

/-- The record written for what was handed over (R149 items 2 and 3). -/
def State.recordFor (s : State) (held : Bool) (body : RecordBody) : RentalRecord :=
  ⟨s.store.nextSeq, s.ssu.stamp, s.ssu.state == .stale, held, body⟩

/-- The sequence number of the record in a segment's first slot. -/
def State.firstSeq (s : State) (segment : Nat) : BitVec 16 :=
  match s.store.slots.getD (segment * s.segmentSize) none with
  | some r => r.seq
  | none => 0

/-- R150: the segment is filled. A refused LOG-READY is not offered again. -/
def State.fillSegment (s : State) (segment : Nat) : State :=
  (s.setStore { s.store with flags := s.store.flags.set segment true, cursors := s.store.cursors.set segment 0 }).queueService
    (.logReady segment (s.firstSeq segment))

/-- R149 items 1 to 3: the record is placed in the slot at the writer position. -/
def State.placeRecord (s : State) (held : Bool) (body : RecordBody) : State :=
  s.setStore
    { s.store with
      slots := s.store.slots.set s.store.writer (some (s.recordFor held body)), nextSeq := s.store.nextSeq + 1 }

/-- R149 item 5: the writer position moves to the next slot. -/
def State.moveWriter (s : State) : State :=
  s.setStore { s.store with writer := (s.store.writer + 1) % Config.storeSlots }

/-- R149, R150, R151: a record is written; a segment it fills is flagged, and a flagged segment ahead blocks the store. -/
def State.writeRecord (s : State) (held : Bool) (body : RecordBody) : State :=
  if s.atSegmentEnd then
    let moved := ((s.placeRecord held body).fillSegment s.writerSegment).moveWriter
    if moved.blocked then moved.raise .store .storeBlocked else moved
  else (s.placeRecord held body).moveWriter

/-- R152: a record joins its pending list; a RESET-MARK is not added while one waits. -/
def State.pend (s : State) (body : RecordBody) : State :=
  if body == .resetMark && s.store.waiting.contains .resetMark then s
  else s.setStore { s.store with waiting := s.store.waiting ++ [body] }

/-- R149, R152: a record is handed to the store; `held` marks one that comes from a pending list. -/
def State.handOver (s : State) (held : Bool) (body : RecordBody) : State :=
  if s.blocked then s.pend body else s.writeRecord held body

/-- R153: the pending records are written, oldest first, with their held marks set. -/
def State.drain (s : State) : State :=
  s.store.waiting.foldl (fun x body => x.handOver true body) (s.setStore { s.store with waiting := [] })

end Sys2Proof.Machine
end

