-- ==== Sys2Proof/Machine/Bays.lean ====
section
/-! DEFINITION. Bays: what happens at one bay, apart from the ends of releases (R116 to R132). -/

namespace Sys2Proof.Machine

/-- A bay's record changed. -/
def State.updateBay (s : State) (b : Bay) (f : BayRecord → BayRecord) : State := s.setBay b (f (s.bay b))

/-- R119: a bay in EMPTY with its seat asserted and fewer than 2 records pending begins docking. -/
def State.tryDock (s : State) (b : Bay) : State :=
  if (s.bay b).state = .empty ∧ (s.input b).seat = true ∧ s.pendingCount b < Config.pendingCap then
    (s.updateBay b (fun r => { r with state := .docking })).requestRun b (.role .relatch)
  else s

/-- Entry to EMPTY (R119). -/
def State.enterEmpty (s : State) (b : Bay) : State := (s.updateBay b (fun r => { r with state := .empty })).tryDock b

/-- A bay record as calibration begins (R116). -/
def BayRecord.calibrating (r : BayRecord) : BayRecord :=
  { r with state := .calibrating, claim := none, cause := none, bikeId := none, bikeClass := none, take := none }

/-- R116: a bay begins calibration; where a run of its own still runs, the HOME run is that run's follow-on. -/
def State.calibrate (s : State) (b : Bay) : State :=
  if s.runsAt b then s.updateBay b (fun r => { r.calibrating with followOn := some .home })
  else (s.updateBay b BayRecord.calibrating).requestRun b (.role .home)

/-- The attention code of a fault code (R132). -/
def FaultCode.code : FaultCode → Code
  | .forcedRemoval => .forcedRemoval
  | .latchFail => .latchFail
  | .homeNotFound => .homeNotFound
  | .driverFault => .driverFault

/-- A bay record at its entry to FAULTED (R132): a claim it held and a tag read are gone with the state that had them. -/
def BayRecord.faulted (r : BayRecord) (code : FaultCode) : BayRecord :=
  { r with state := .faulted, fault := some code, take := none, claim := none, cause := none, tagRead := none,
           failedDock := none }

/-- R132: a bay becomes FAULTED; `raised` says that the Profile Runner has raised the code already. -/
def State.faultBay (s : State) (b : Bay) (code : FaultCode) (raised : Bool) : State :=
  let set := (s.updateBay b (fun r => r.faulted code)).withdraw b
  (if raised then set else set.raise (.bay b) code.code).placeLight b .fault

/-- The bike ID and class made absent. -/
def BayRecord.noBike (r : BayRecord) : BayRecord := { r with bikeId := none, bikeClass := none }

/-- R118, R121: a bay is lost with no record, and its bike ID and class become absent. -/
def State.loseBay (s : State) (b : Bay) (code : FaultCode) : State := (s.updateBay b BayRecord.noBike).faultBay b code false

/-- How a run ends (R143). The step index is that of R141 and R142. -/
inductive RunResult where
  | success
  | failLimit (index : Nat)
  | failDriver (index : Nat)
  | stopped (index : Nat)
  deriving DecidableEq, Repr

/-- The run failed on a driver failure. -/
def RunResult.byDriver : RunResult → Bool
  | .failDriver _ => true
  | .success => false
  | .failLimit _ => false
  | .stopped _ => false

/-- The fault code of a failed run where the rule names LATCH FAIL and DRIVER FAULT (R117, R120, R124, R127, R128, R130,
R131). -/
def RunResult.fault (r : RunResult) : FaultCode := if r.byDriver then .driverFault else .latchFail

/-- R118: a tag read begins, with its first attempt. -/
def State.beginTagRead (s : State) (b : Bay) : State := s.updateBay b (fun r => { r with tagRead := some 1 })

/-- R120: the RETURN record of a docking is handed over. -/
def State.handReturn (s : State) (b : Bay) (failed : Bool) : State :=
  s.handOver false (.returned b (s.bay b).bikeId (s.bay b).bikeClass failed)

/-- The bay enters DOCKED; a request still waiting there has no purpose left (R114). -/
def State.enterDocked (s : State) (b : Bay) : State := (s.updateBay b (fun r => { r with state := .docked })).withdraw b

/-- R120: a docking whose RELATCH run failed ends with a latch-failed RETURN and FAULTED. -/
def State.failDocking (s : State) (b : Bay) (code : FaultCode) : State :=
  (s.handReturn b true).faultBay b code (code == .driverFault)

/-- R117, R120, R131: what follows the end of a tag read. A bay of which a further SERVICE-CLOSE was asked during the read
stays SERVICE-OPEN until that run ends (log 14). -/
def State.endTagRead (s : State) (b : Bay) : State :=
  let r := s.bay b
  let idle := s.updateBay b (fun x => { x with tagRead := none, failedDock := none })
  match r.state with
  | .docking =>
    match r.failedDock with
    | some code => idle.failDocking b code
    | none => (idle.handReturn b false).enterDocked b
  | .calibrating => idle.enterDocked b
  | .serviceOpen => if idle.wantsDrive b then idle else idle.enterDocked b
  | _ => idle

/-- R118: an attempt ends, read or unread. -/
def State.tagAttempt (s : State) (b : Bay) (attempt : Nat) (answer : Option (BikeId × BikeClass)) : State :=
  match answer with
  | some (id, cls) => (s.updateBay b (fun r => { r with bikeId := some id, bikeClass := some cls })).endTagRead b
  | none =>
    if attempt < Config.tagAttempts then s.updateBay b (fun r => { r with tagRead := some (attempt + 1) })
    else ((s.updateBay b BayRecord.noBike).raise (.bay b) .tagUnread).endTagRead b

/-- R64: the claim at a bay ends as taken, and is detached. -/
def State.claimTaken (s : State) (b : Bay) (t : TokenId) : State :=
  (s.updateEntry t (fun e => some (if e.status = .ownHeld then { e with status := .ownTaken } else e))).updateBay b
    (fun r => { r with claim := none })

/-- The START record of a withdrawal is handed over and its claim ends as taken (R125, R128). -/
def State.startRental (s : State) (b : Bay) (late : Bool) : State :=
  match (s.bay b).claim with
  | some t => (s.handOver false (.start b t (s.bay b).bikeId (s.bay b).bikeClass late)).claimTaken b t
  | none => s

/-- R125: withdrawal from OPEN. -/
def State.withdrawal (s : State) (b : Bay) : State :=
  let started := (s.updateBay b (fun r => { r with take := none })).startRental b false
  ((started.updateBay b (fun r => { r.noBike with state := .empty })).placeLight b .shut).tryDock b

/-- R126: a bay in OPEN begins to relatch. -/
def State.beginRelatch (s : State) (b : Bay) (cause : RelatchCause) : State :=
  ((s.updateBay b (fun r => { r with state := .relatching, cause := some cause, take := none })).requestRun b
    (.role .relatch)).placeLight b .shut

/-- Removal of the post's own held entry (R25, R64). -/
def State.removeHeld (s : State) (t : TokenId) : State :=
  s.updateEntry t (fun e => if e.status = .ownHeld then none else some e)

/-- R64, R65: a held claim ends as a lapse: the entry is removed and LAPSE is queued. -/
def State.lapseClaim (s : State) (t : TokenId) (reason : LapseReason) : State :=
  (s.removeHeld t).queueProtocol (.lapse t reason)

/-- R127: the lapse of the claim a relatching bay holds. The record is handed over before the entry is removed and LAPSE is
queued, as R127 lists them; R77 lists the record last (log 38). -/
def State.lapseBay (s : State) (b : Bay) : State :=
  match (s.bay b).claim, (s.bay b).cause with
  | some t, some cause =>
    ((s.handOver false (.lapse b t (s.bay b).bikeId (s.bay b).bikeClass cause)).lapseClaim t cause.reason).updateBay b
      (fun r => { r with claim := none, cause := none })
  | _, _ => s

/-- R153: the Bay Controllers whose lists the drain changed are told, in bay order. -/
def State.drainAndTell (s : State) : State :=
  let told := allBays.filter (fun b => 0 < s.pendingCount b)
  told.foldl (fun x b => x.tryDock b) s.drain

/-- R156: LOG-DATA of a segment loses its advancing mark. -/
def Frame.unmark (segment : Nat) (f : Frame) : Frame :=
  match f with
  | .logData q g start records endOf refusal advancing =>
    .logData q g start records endOf refusal (advancing && g.toNat != segment)
  | _ => f

/-- R151, R153, R156, R157: a segment's ready flag is cleared; where the store was BLOCKED on it, it drains. -/
def State.clearSegment (s : State) (segment : Nat) : State :=
  let cleared :=
    (s.setStore { s.store with flags := s.store.flags.set segment false }).setService
      (s.rlc.service.map (fun q => { q with frame := q.frame.unmark segment }))
  if s.blocked && !cleared.blocked then cleared.drainAndTell else cleared

end Sys2Proof.Machine
end

