-- ==== Sys2Proof/Machine/Claims.lean ====
section
/-! DEFINITION. Claims: the claim a transaction holds, from reservation to its end (R59 to R75, R101 to R107). -/

namespace Sys2Proof.Machine

/-- R123: an eligible bay is reserved, and its waiting PATROL request is withdrawn. -/
def State.reserve (s : State) (b : Bay) : State := (s.updateBay b (fun r => { r with state := .reserved })).withdraw b

/-- R103, R123: the chosen bay's reservation is given back, where it still stands. -/
def State.giveBack (s : State) : State :=
  match s.tap.chosen with
  | some b => if (s.bay b).state = .reserved then s.updateBay b (fun r => { r with state := .docked }) else s
  | none => s

/-- R103, R107: the claim is over before its settle window ended: the reservation is given back and the transaction ends
with the verdict. -/
def State.claimOver (s : State) (v : Verdict) : State := s.giveBack.endTransaction v

/-- The transaction holds a claim for this token in this phase. -/
def State.claims (s : State) (phase : TapPhase) (t : TokenId) : Bool :=
  s.tap.phase == phase && (match s.tap.token with
    | some x => x.id == t
    | none => false)

/-- The frame is the CLAIM for a token. -/
def Frame.isClaimFor (t : TokenId) : Frame → Bool
  | .claim x _ _ => x == t
  | _ => false

/-- R61: the CLAIM that waits for a token is withdrawn. -/
def State.withdrawClaim (s : State) (t : TokenId) : State := s.removeProtocol (Frame.isClaimFor t)

/-- The settle timer is stopped where it times the token's claim (R70, R73). -/
def State.stopSettle (s : State) (t : TokenId) : State :=
  match s.ce.settle with
  | some timer => if timer.token = t then s.setCe { s.ce with settle := none } else s
  | none => s

/-- R24: the expiry of the post's own claim. -/
def State.ownExpiry (s : State) (t : Token) : Stamp :=
  BitVec.ofNat 32 (min Config.stampMax (t.notAfter.toNat + s.cfg.skewS))

/-- R59: the OWN-PENDING entry of a claim. -/
def State.ownEntry (s : State) (t : Token) (b : Bay) : Entry :=
  ⟨t.id, .ownPending, some s.strap, some b, s.ownExpiry t, false⟩

/-- R59, R102: the claim starts, or is refused with BUSY and the reservation given back. -/
def State.startClaim (s : State) (t : Token) (b : Bay) : State :=
  if s.claimAdmitted then
    let queued := (s.insertEntry (s.ownEntry t b)).queueProtocol (.claim t.id b (s.ownExpiry t))
    queued.setTap { queued.tap with phase := .claiming }
  else s.claimOver .busy

/-- R101: the candidates for a token, in rotation order. -/
def State.candidatesFor (s : State) (t : Token) : List Bay := (rotationOrder s.tap.rotation).filter (s.eligible t)

/-- R101: selection. -/
def State.select (s : State) (t : Token) : State :=
  match s.candidatesFor t with
  | [] => s.endTransaction .noBike
  | b :: rest =>
    let chosen := s.setTap { s.tap with phase := .selecting, chosen := some b, candidates := b :: rest, position := 0 }
    (chosen.reserve b).startClaim t b

/-- R104: the hand-over of the held claim to a bay at a place of the candidate list. -/
def State.handClaim (s : State) (t : Token) (i : Nat) (b : Bay) : State :=
  let placed := s.setTap { s.tap with position := i, chosen := some b }
  let named := placed.updateEntry t.id (fun e => some (if e.status = .ownHeld then { e with bay := some b } else e))
  let given := (named.updateBay b (fun r => { r with claim := some t.id, state := .releasing })).withdraw b
  let asked := given.requestRun b (.role .release)
  asked.setTap { asked.tap with rotation := b, phase := .releaseStart }

/-- R106: the candidates are exhausted. -/
def State.exhaust (s : State) (t : Token) : State :=
  ((s.lapseClaim t.id .noBay).handOver false (.noBay t.id)).endTransaction .bayFault

/-- R104, R105: the walk over the candidates from place `i` on: the first eligible is handed the claim. -/
def State.walk (s : State) (t : Token) (i : Nat) : List Bay → State
  | [] => s.exhaust t
  | b :: rest => if s.eligible t b then s.handClaim t i b else s.walk t (i + 1) rest

/-- R104, R105: the walk from the position after the last candidate. -/
def State.walkOn (s : State) (t : Token) : State := s.walk t (s.tap.position + 1) (s.tap.candidates.drop (s.tap.position + 1))

/-- R104: at settle expiry the claim goes to the chosen bay, where it is still RESERVED, or on down the list. -/
def State.handFirst (s : State) (t : Token) : State :=
  match s.tap.chosen with
  | some b => if (s.bay b).state = .reserved then s.handClaim t s.tap.position b else s.walkOn t
  | none => s.walkOn t

/-- R63: the entry becomes OWN-HELD, the timer stops, and the Tap Sequencer hands the claim over. -/
def State.settled (s : State) (timer : SettleTimer) : State :=
  let held :=
    (s.updateEntry timer.token (fun e => some (if e.status = .ownSettling then { e with status := .ownHeld } else e))).setCe
      { s.ce with settle := none }
  match held.tap.token with
  | some t => if held.claims .settling timer.token then held.handFirst t else held
  | none => held

/-- R124, R125: a release has succeeded: the bay enters OPEN, the transaction is GRANTED, and the light shows OPEN. -/
def State.enterOpen (s : State) (b : Bay) : State :=
  let opened := s.updateBay b (fun r => { r with state := .opened, take := some (1000 * s.cfg.takeS) })
  let told := if opened.tap.phase = .releaseStart ∧ opened.tap.chosen = some b then opened.endTransaction (.granted b) else opened
  let lit := told.placeLight b .opened
  if (lit.input b).presence then lit else lit.withdrawal b

/-- R124: the fault code of a failed release. -/
def releaseFault (presence : Bool) (r : RunResult) : FaultCode := if presence then r.fault else .forcedRemoval

/-- R105, R124: a release has failed: the bay becomes FAULTED and detaches the claim, and the Tap Sequencer walks on. -/
def State.failRelease (s : State) (b : Bay) (r : RunResult) : State :=
  let code := releaseFault (s.input b).presence r
  let lost := s.faultBay b code (code == .driverFault)
  match lost.tap.token with
  | some t => if lost.tap.phase = .releaseStart ∧ lost.tap.chosen = some b then lost.walkOn t else lost
  | none => lost

/-- R10, R107: the abort of a transaction when the mode leaves SERVICE. -/
def State.abort (s : State) : State :=
  match s.tap.phase with
  | .intake => s.setTap { s.tap with closed := true }
  | .checking => (s.setTcu ⟨false, none⟩).endTransaction .postClosed
  | .claiming =>
    match s.tap.token with
    | some t =>
      ((s.updateEntry t.id (fun e => if e.status = .ownPending then none else some e)).withdrawClaim t.id).claimOver .postClosed
    | none => s.claimOver .postClosed
  | _ => s

/-- The frame is the OBJECT for a token and claimant. -/
def Frame.isObjectFor (t : TokenId) (c : Addr) : Frame → Bool
  | .object x y _ => x == t && y == c
  | _ => false

/-- R69: the record of an OBJECT leaves the objection set. -/
def State.forgetObjection (s : State) (t : TokenId) (c : Addr) : State :=
  s.setCe { s.ce with objections := s.ce.objections.filter (fun o => !(o.token == t && o.claimant == c)) }

/-- R68: an OBJECT decided on is queued, declined, or lost to the set's cap. -/
def State.decideObject (s : State) (t : TokenId) (c : Addr) (reason : ObjectReason) : State :=
  if s.ce.objections.any (fun o => o.token == t && o.claimant == c) then s
  else if s.ce.objections.length < Config.objectionCap then
    (s.queueProtocol (.object t c reason)).setCe { s.ce with objections := s.ce.objections ++ [⟨t, c⟩] }
  else s.raise .line .objectionDropped

/-- R69: a waiting OBJECT for the same token and claimant is removed with its record. -/
def State.suppress (s : State) (t : TokenId) (c : Addr) : State :=
  if s.ce.objections.any (fun o => o.token == t && o.claimant == c) then
    (s.removeProtocol (Frame.isObjectFor t c)).forgetObjection t c
  else s

/-- R66: a CLAIM from another station. -/
def State.takeClaim (s : State) (c : Addr) (t : TokenId) (b : Bay) (expiry : Stamp) : State :=
  match s.entry t with
  | none => s.insertEntry ⟨t, .peerClaimed, some c, some b, expiry, false⟩
  | some e =>
    match e.status with
    | .ownPending =>
      let replaced := (s.updateEntry t (fun _ => some ⟨t, .peerClaimed, some c, some b, expiry, false⟩)).withdrawClaim t
      if replaced.claims .claiming t then replaced.claimOver .claimedElsewhere else replaced
    | .ownSettling | .ownHeld | .ownTaken => s.decideObject t c .spent
    | .peerClaimed => if e.claimant = some c then s else s.decideObject t c .spent
    | .void => s.decideObject t c .void
    | .revoked => s.decideObject t c .revoked

/-- R69, R70, R77: an OBJECT from another station. A PEER-CLAIMED entry that names this post is left as it is (log 28). -/
def State.takeObject (s : State) (t : TokenId) (c : Addr) : State :=
  match s.entry t with
  | none => s.suppress t c
  | some e =>
    let void : State := s.updateEntry t (fun x => some { x with status := .void })
    match e.status with
    | .ownSettling =>
      if c = s.strap then
        let stopped := (void.stopSettle t).suppress t c
        if stopped.claims .settling t then stopped.claimOver .objected else stopped
      else s.suppress t c
    | .ownHeld | .ownTaken => if c = s.strap then (s.raise .table .lateObjection).suppress t c else s.suppress t c
    | .peerClaimed => if e.claimant = some c ∧ c ≠ s.strap then void.suppress t c else s.suppress t c
    | .ownPending | .void | .revoked => s.suppress t c

/-- R72: a LAPSE from another station. -/
def State.takeLapse (s : State) (c : Addr) (t : TokenId) : State :=
  s.updateEntry t (fun e => if e.status = .peerClaimed ∧ e.claimant = some c then none else some e)

/-- R28, R73: a REVOKE. -/
def State.takeRevoke (s : State) (t : TokenId) (expiry : Stamp) : State :=
  match s.entry t with
  | none => s.insertEntry ⟨t, .revoked, none, none, expiry, false⟩
  | some e =>
    let revoked : State := s.updateEntry t (fun x => some (x.revoke expiry))
    match e.status with
    | .peerClaimed | .void | .revoked => revoked
    | .ownPending =>
      let pulled := revoked.withdrawClaim t
      if pulled.claims .claiming t then pulled.claimOver .revoked else pulled
    | .ownSettling =>
      let stopped := revoked.stopSettle t
      if stopped.claims .settling t then stopped.claimOver .revoked else stopped
    | .ownHeld | .ownTaken =>
      let marked := s.updateEntry t (fun x => some { x with revokedLate := true, expiry := laterStamp x.expiry expiry })
      if e.revokedLate then marked else marked.raise .table .revokedLate

/-- R62: the echo of the post's own CLAIM. -/
def State.claimEchoed (s : State) (t : TokenId) : State :=
  let settling :=
    (s.updateEntry t (fun e => some (if e.status = .ownPending then { e with status := .ownSettling } else e))).setCe
      { s.ce with settle := some ⟨s.cfg.settleMs, t⟩ }
  if settling.claims .claiming t then settling.setTap { settling.tap with phase := .settling } else settling

/-- R75: the post's own CLAIM is dropped. -/
def State.claimDropped (s : State) (t : TokenId) : State :=
  let removed := s.updateEntry t (fun e => if e.status = .ownPending then none else some e)
  if removed.claims .claiming t then removed.claimOver .lineFault else removed

/-- R61: the withdrawal check: the table holds the token as OWN-PENDING with this post as claimant. -/
def State.claimStands (s : State) (t : TokenId) : Bool :=
  match s.entry t with
  | some e => e.status == .ownPending && e.claimant == some s.strap
  | none => false

end Sys2Proof.Machine
end

