-- ==== Sys2Proof/Machine/Runs.lean ====
section
/-! DEFINITION. Runs: the Profile Runner's boundaries and completions, and what each run's end does to its bay (R114 to
R146). -/

namespace Sys2Proof.Machine

/-! ### Steps -/

/-- What a boundary leaves: a run that goes on, or one that has ended (R142). -/
inductive Progress where
  | going (r : Run)
  | ended (r : Run) (result : RunResult)
  deriving DecidableEq, Repr

/-- A run at the start of its next step (R135, R137). -/
def Run.enterStep (r : Run) : Run := { r with index := r.index + 1, made := 0, edge := .seekLow }

/-- A run whose step is complete (R137): the anchor step restarts the OUT count. -/
def Run.stepDone (r : Run) (st : Step) : Run := if st.isAnchor then { r with outs := 0 } else r

/-- R136, R137: the run begins the next of the steps that are left, passing over those complete at their start reading. -/
def Run.begin (input : BayInputs) (r : Run) : List Step → Progress
  | [] => .ended r .success
  | st :: rest =>
    let r1 := r.enterStep
    match st.mode with
    | .untilSees sensor level _ => if input.level sensor = level then (r1.stepDone st).begin input rest else .going r1
    | .edge sensor _ => .going (if input.level sensor then r1 else { r1 with edge := .seekHigh })
    | .stopWhen sensor level =>
      match st.action with
      | .sense => if input.level sensor = level then .ended r1 .success else r1.begin input rest
      | _ => .going r1
    | .plain =>
      match st.action with
      | .sense => r1.begin input rest
      | _ => .going r1

/-- The steps after the current one; all of them during the pulse. -/
def Run.left (r : Run) : List Step := r.steps.drop r.index

/-- R135: the bolt steps a step of action OUT or IN makes. -/
def Run.count (r : Run) (st : Step) (n : Nat) : Nat := if st.fromClearPoint then r.clearPoint.getD n else n

/-- R136: the step's whole action has been performed. -/
def Run.performed (r : Run) (st : Step) : Bool :=
  match st.action with
  | .out n => r.count st n ≤ r.made
  | .inward n => r.count st n ≤ r.made
  | .dwell _ => true
  | .sense => true

/-- What a step's own completion test finds (R136, R137, R142 test 2). -/
inductive StepTest where
  | notYet (r : Run)
  | complete (r : Run)
  | ends (result : RunResult)

/-- R136, R137: the completion test of the step in progress at a boundary. -/
def Run.test (input : BayInputs) (r : Run) (st : Step) : StepTest :=
  match st.mode with
  | .plain => if r.performed st then .complete r else .notYet r
  | .stopWhen sensor level =>
    if r.performed st then if input.level sensor = level then .ends .success else .complete r else .notYet r
  | .untilSees sensor level limit =>
    if input.level sensor = level then .complete (r.stepDone st)
    else if limit ≤ r.made then .ends (.failLimit r.index) else .notYet r
  | .edge sensor limit =>
    if r.edge = .seekHigh ∧ input.level sensor = true then .complete { r with measured := some r.outs }
    else if limit ≤ r.made then .ends (.failLimit r.index)
    else .notYet (if input.level sensor then r else { r with edge := .seekHigh })

/-- R142: tests 2 and 3 at a boundary, and the start of what follows. -/
def Run.proceed (input : BayInputs) (r : Run) (st : Step) : Progress :=
  match r.test input st with
  | .ends result => .ended r result
  | .notYet r1 => if r1.stop then .ended r1 (.stopped r1.index) else .going r1
  | .complete r1 =>
    if r1.left.isEmpty then .ended r1 .success
    else if r1.stop then .ended r1 (.stopped (r1.index + 1)) else r1.begin input r1.left

/-- A movement or wait made in the step in progress (R140). -/
def Run.moved (r : Run) (st : Step) : Run :=
  match st.action with
  | .out _ => { r with made := r.made + 1, outs := r.outs + 1 }
  | .inward _ => { r with made := r.made + 1 }
  | .dwell _ => r
  | .sense => { r with made := r.made + 1 }

/-! ### What a run's end does to its bay -/

/-- R117: a bay in CALIBRATING whose HOME run has succeeded. -/
def State.homed (s : State) (b : Bay) : State :=
  if (s.input b).presence then
    if (s.input b).seat then s.beginTagRead b else s.faultBay b .latchFail false
  else s.requestRun b .opening

/-- The bay becomes FAULTED by a failed run: DRIVER FAULT, raised already, or LATCH FAIL. -/
def State.failRun (s : State) (b : Bay) (r : RunResult) : State := s.faultBay b r.fault r.byDriver

/-- R116: a HOME run in CALIBRATING has failed. -/
def State.failHome (s : State) (b : Bay) (r : RunResult) : State :=
  s.faultBay b (if r.byDriver then .driverFault else .homeNotFound) r.byDriver

/-- R116, R117: a run's end in CALIBRATING. -/
def State.calibrationEnd (s : State) (b : Bay) (run : RunFor) (r : RunResult) : State :=
  match r with
  | .stopped _ => s
  | .success => if run = .opening then s.enterEmpty b else s.homed b
  | _ => if run = .opening then s.failRun b r else s.failHome b r

/-- R120: the end of a docking's RELATCH run. -/
def State.dockingEnd (s : State) (b : Bay) (r : RunResult) : State :=
  let seated := (s.input b).presence && (s.input b).seat
  match r with
  | .stopped _ => s
  | .success => if seated then s.beginTagRead b else s.calibrate b
  | _ => if seated then (s.updateBay b (fun x => { x with failedDock := some r.fault })).beginTagRead b
         else s.failDocking b r.fault

/-- R122: the end of a PATROL run in DOCKED. -/
def State.patrolEnd (s : State) (b : Bay) (r : RunResult) : State :=
  match r with
  | .success => s
  | .stopped _ => s
  | _ => s.faultBay b .latchFail false

/-- R124: the end of a RELEASE run in RELEASING. -/
def State.releaseEnd (s : State) (b : Bay) (r : RunResult) : State :=
  match r with
  | .stopped _ => s
  | .success => s.enterOpen b
  | _ => s.failRelease b r

/-- R127: the end of a RELATCH run in RELATCHING. -/
def State.relatchEnd (s : State) (b : Bay) (r : RunResult) : State :=
  match r with
  | .stopped _ => s
  | .success => (s.lapseBay b).updateBay b (fun x => { x with state := .docked })
  | _ => (s.lapseBay b).failRun b r

/-- R128: the end of a RELEASE run in REOPENING. -/
def State.reopeningEnd (s : State) (b : Bay) (r : RunResult) : State :=
  match r with
  | .stopped _ => s
  | .success => s.enterEmpty b
  | _ => s.failRun b r

/-- R130, R131: the end of a run in SERVICE-OPEN. -/
def State.serviceEnd (s : State) (b : Bay) (run : RunFor) (r : RunResult) : State :=
  match r with
  | .stopped _ => s
  | .success =>
    if run = .role .serviceClose then
      if (s.input b).presence && (s.input b).seat then s.beginTagRead b else s.calibrate b
    else s
  | _ => s.failRun b r

/-- R114, R143 item 3: the Bay Controller takes a run's result. A follow-on is requested whatever the result. -/
def State.takeResult (s : State) (b : Bay) (run : RunFor) (r : RunResult) : State :=
  match (s.bay b).followOn with
  | some .home => (s.updateBay b (fun x => { x with followOn := none })).requestRun b (.role .home)
  | some .release => (s.updateBay b (fun x => { x with followOn := none })).requestRun b (.role .release)
  | none =>
    match (s.bay b).state with
    | .calibrating => s.calibrationEnd b run r
    | .docking => s.dockingEnd b r
    | .docked => if run = .role .patrol then s.patrolEnd b r else s
    | .releasing => s.releaseEnd b r
    | .relatching => s.relatchEnd b r
    | .reopening => s.reopeningEnd b r
    | .serviceOpen => s.serviceEnd b run r
    | .absent | .empty | .reserved | .opened | .faulted => s

/-- R114: the clear point becomes the count measured. -/
def State.takeMeasured (s : State) (r : Run) : State :=
  match r.measured with
  | some n => s.updateBay r.bay (fun x => { x with clearPoint := some n })
  | none => s

/-- The drive made FREE (R146). -/
def State.freeDrive (s : State) : State := s.setDrive { s.drive with holder := none }

/-- R143: the completion of a run: the lines at rest, the Bay Controller's answer, then the next grant. -/
def State.completeRun (s : State) (r : Run) (result : RunResult) : State :=
  ((((s.setRun none).takeMeasured r).takeResult r.bay r.run result).freeDrive).grant

/-- What a boundary's tests 2 and 3 leave, taken. -/
def State.progress (s : State) (p : Progress) : State :=
  match p with
  | .going r => s.setRun (some r)
  | .ended r result => s.completeRun r result

/-- R141: FAIL DRIVER, with DRIVER FAULT raised by the Profile Runner. -/
def State.driverFails (s : State) (r : Run) : State :=
  (s.raise (.bay r.bay) .driverFault).completeRun r (.failDriver r.index)

/-- R141, R142: the boundary at the end of the fault-reset pulse. A stop asked for in the pulse ends the run at index 0
(log 10). -/
def State.pulseEnd (s : State) (r : Run) : State :=
  if (s.input r.bay).driverFault then s.driverFails r
  else if r.stop then s.completeRun r (.stopped 0)
  else s.progress (r.begin (s.input r.bay) r.left)

/-- R141, R142: a boundary of the step in progress, after its movement or wait is counted. -/
def State.stepBoundary (s : State) (r : Run) (st : Step) : State :=
  if (s.input r.bay).driverFault then s.driverFails (r.moved st)
  else s.progress ((r.moved st).proceed (s.input r.bay) st)

/-- R142: a bay asks its running run to stop; a stop asked for in a DWELL is taken at once. -/
def State.requestStop (s : State) (b : Bay) : State :=
  match s.run with
  | some r =>
    if r.bay = b then
      let asked := { r with stop := true }
      if r.dwelling then
        if (s.input b).driverFault then s.driverFails asked else s.completeRun asked (.stopped r.index)
      else s.setRun (some asked)
    else s
  | none => s

/-! ### Sensor changes that ask a run to stop -/

/-- R118, R121: forced removal, with a PATROL run of the bay asked to stop. A further SERVICE-CLOSE run that is running as
presence or seat falls in a tag read is asked to stop too (log 39). -/
def State.forceBay (s : State) (b : Bay) : State := (s.loseBay b .forcedRemoval).requestStop b

/-- R128: a late withdrawal. -/
def State.lateWithdrawal (s : State) (b : Bay) : State :=
  let taken := (s.startRental b true).updateBay b (fun r => { r.noBike with cause := none })
  if taken.runsAt b then
    (taken.updateBay b (fun r => { r with state := .reopening, followOn := some .release })).requestStop b
  else (taken.withdraw b).enterEmpty b

/-- R118, R121, R125, R128: presence falls at a bay. -/
def State.presenceFell (s : State) (b : Bay) : State :=
  if (s.bay b).tagRead.isSome then s.forceBay b
  else
    match (s.bay b).state with
    | .docked | .reserved => s.forceBay b
    | .opened => s.withdrawal b
    | .relatching => s.lateWithdrawal b
    | .absent | .calibrating | .empty | .docking | .releasing | .reopening | .serviceOpen | .faulted => s

/-- R120: the seat falls in DOCKING, its tag read not begun. -/
def State.undock (s : State) (b : Bay) : State :=
  if s.runsAt b then (s.calibrate b).requestStop b
  else if s.requestWaits b then (s.withdraw b).enterEmpty b
  else s

/-- R118, R120, R121: the seat falls at a bay. -/
def State.seatFell (s : State) (b : Bay) : State :=
  if (s.bay b).tagRead.isSome then s.forceBay b
  else
    match (s.bay b).state with
    | .docked | .reserved => s.forceBay b
    | .docking => s.undock b
    | .absent | .calibrating | .empty | .releasing | .opened | .relatching | .reopening | .serviceOpen | .faulted => s

/-- R121: a docked bay that no run moves is lost to home falling or the driver-fault input rising. -/
def State.latchLost (s : State) (b : Bay) (code : FaultCode) : State :=
  if s.runsAt b then s
  else
    match (s.bay b).state with
    | .docked | .reserved => s.loseBay b code
    | .absent | .calibrating | .empty | .docking | .releasing | .opened | .relatching | .reopening | .serviceOpen
    | .faulted => s

end Sys2Proof.Machine
end

