-- ==== Sys2Proof/Machine/Modes.lean ====
section
/-! DEFINITION. Modes: joining, the mode machine, RESTART, and the row actions' effects (R79 to R92, R168 to R179). -/

namespace Sys2Proof.Machine

/-! ### The mode machine -/

/-- R178: in CLOSING, all bays idle at the end of an event takes the post to MAINTENANCE (log 11). -/
def State.closingCheck (s : State) : State :=
  if s.mode = .closing ∧ s.allBaysIdle = true then s.setMode .maintenance else s

/-- R122: the patrol timer started, unless the interval is 0. -/
def State.startPatrol (s : State) : State :=
  s.setPatrol (if s.cfg.patrolMin = 0 then none else some (60000 * s.cfg.patrolMin))

/-- R175 items 3 to 7: the entry to JOINING. -/
def State.enterJoining (s : State) : State :=
  let joined := s.setMode .joining
  let asked := (joined.fittedBays.foldl (fun x b => x.calibrate b) joined).startPatrol
  (asked.setJu { asked.ju with join := .gapWait }).offerNotice

/-- R175 item 2: each bay numbered at or above the fitted count becomes ABSENT. -/
def State.absentUnfitted (s : State) : State :=
  (allBays.filter (fun b => !s.fitted b)).foldl (fun x b => x.updateBay b (fun r => { r with state := .absent })) s

/-- R174 to R176: the end of start-up with the image the record gives, or with none. -/
def State.endStartUp (s : State) (image : Option Image) : State :=
  match image with
  | some i => ((s.setImage (some i)).absentUnfitted).enterJoining
  | none => s.setMode .configFault

/-! ### RESTART -/

/-- R113: a bay record after RESTART: ABSENT and the clear point are kept. -/
def BayRecord.restarted (r : BayRecord) : BayRecord :=
  { BayRecord.reset with state := if r.state = .absent then .absent else .calibrating, clearPoint := r.clearPoint }

/-- R110, R113: the bays take their RESTART values; the light of a bay that leaves FAULTED shows SHUT (log 12). -/
def State.restartBays (s : State) : State :=
  let lit := (allBays.filter (fun b => (s.bay b).state == .faulted)).foldl (fun x b => x.placeLight b .shut) s
  allBays.foldl (fun x b => x.updateBay b BayRecord.restarted) lit

/-- R111: the messages RESTART leaves: a waiting VERDICT of the transaction is removed, one under transmission is finished
and belongs to no transaction (log 21). -/
def TapLink.restarted (l : TapLink) : TapLink :=
  { list := l.list.filter (fun m => !m.answersTransaction)
    sending := l.sending.map (fun m =>
      match m with
      | .verdict v .transaction => .verdict v .dropped
      | _ => m) }

/-- R50, R57, R78, R95, R140, R144, R160, R170, R179 items 1 and 2: the queues are emptied and the blocks take their RESTART
values; the stamp, the store, the attention entries and the tap transmit list are kept. -/
def State.clearForRestart (s : State) : State :=
  let emptied := (((s.setRlc { s.rlc with protocol := [], service := [], attempt := none }).setTable
    (List.replicate Config.tablePlaces none)).setCe ⟨none, []⟩).setJu JoinUnit.reset
  let reset := (((((emptied.setTcu ⟨false, none⟩).setTap TapRecord.reset).setLink s.link.restarted).setRun none).setDrive
    ⟨[], none⟩).setDelays []
  (reset.restartBays).clearNoticed

/-- R179: the restart is carried out. -/
def State.carryOutRestart (s : State) : State :=
  (((s.clearForRestart.setRestartDue false).handOver false .resetMark)).enterJoining

/-- R179: the restart is applied: at once, or at the end of the attempt in flight. -/
def State.applyRestart (s : State) : State :=
  if s.rlc.attempt.isSome then s.setRestartDue true else s.carryOutRestart

/-- R50, R179: at the end of an attempt, its own effects done, a restart that is due is carried out. -/
def State.afterAttempt (s : State) : State := if s.restartDue then s.carryOutRestart else s

/-! ### Join Unit -/

/-- R83: a dump begins. -/
def State.beginDump (s : State) : State :=
  (s.setJu
    { s.ju with
      dump := .dumping, stagger := none, owed := false, cursor := .index 0, nextSeq := 0, framesSent := 0,
      entriesSent := 0 }).queueProtocol .dump

/-- R86, R87: a dump ends; a fresh one begins where one is owed. -/
def State.endDump (s : State) : State := if s.ju.owed then s.beginDump else s.setJu { s.ju with dump := .idle }

/-- R81: a JOIN from another station. A JOIN heard in JOINING is not answered (R79). -/
def State.takeJoin (s : State) : State :=
  if s.mode.running then
    match s.ju.dump with
    | .idle =>
      let delay := s.strap.toNat * s.cfg.dumpStaggerMs
      if delay = 0 then s.beginDump else s.setJu { s.ju with dump := .stagger, stagger := some delay }
    | .stagger => s
    | .dumping => s.setJu { s.ju with owed := true }
  else s

/-- R82: a dump opening from another station, heard by a post out of JOINING. -/
def State.takeOpening (s : State) : State :=
  match s.ju.dump with
  | .stagger => s.setJu { s.ju with dump := .idle, stagger := none }
  | .dumping => s.setJu { s.ju with owed := false }
  | .idle => s

/-- R89: tracking after a DUMP from station `d`. -/
def JoinUnit.track (j : JoinUnit) (d : Addr) (seq entries : Nat) : JoinUnit :=
  if j.tracked = some d then
    if seq = 0 then { j with framesCounted := 1, entriesCounted := entries }
    else if seq = j.framesCounted then
      { j with framesCounted := j.framesCounted + 1, entriesCounted := j.entriesCounted + entries }
    else { j with tracked := none, framesCounted := 0, entriesCounted := 0 }
  else if j.tracked = none ∧ seq = 0 then { j with tracked := some d, framesCounted := 1, entriesCounted := entries }
  else j

/-- R89: the first DUMP with sequence 0 heard while the join window runs restarts the window. -/
def JoinUnit.restartWindow (j : JoinUnit) (windowMs seq : Nat) : JoinUnit :=
  if seq = 0 ∧ j.window.isSome = true ∧ j.restartUsed = false then { j with window := some windowMs, restartUsed := true }
  else j

/-- The configured join window, in ms (R79). -/
def State.joinWindowMs (s : State) : Nat := 1000 * s.cfg.joinWindowS

/-- R82, R88, R89: a DUMP from another station. -/
def State.takeDump (s : State) (d : Addr) (seq : Nat) (entries : List DumpEntry) : State :=
  if s.mode = .joining then
    let merged := entries.foldl (fun x e => x.merge e) s
    merged.setJu ((merged.ju.track d seq entries.length).restartWindow merged.joinWindowMs seq)
  else if seq = 0 then s.takeOpening
  else s

/-- The frame is the JOIN. -/
def Frame.isJoin (f : Frame) : Bool := f.kind == .join

/-- R92: the joiner's side ends and the post enters SERVICE. -/
def State.completeJoin (s : State) : State :=
  let ended := s.setJu
    { s.ju with window := none, tracked := none, framesCounted := 0, entriesCounted := 0, restartUsed := false, join := .off }
  (ended.removeProtocol Frame.isJoin).setMode .service

/-- R90: a DUMP-END heard in JOINING. -/
def State.testDumpEnd (s : State) (d : Addr) (frames entries : Nat) : State :=
  if s.ju.tracked = some d then
    if frames = s.ju.framesCounted ∧ entries = s.ju.entriesCounted then s.completeJoin
    else s.setJu { s.ju with tracked := none, framesCounted := 0, entriesCounted := 0 }
  else if s.ju.tracked = none ∧ frames = 0 then s.completeJoin
  else s

/-- R15: a dumper's stamp is taken while the stamp state is UNSET. -/
def State.takeDumperStamp (s : State) (stamp : Option Stamp) : State :=
  match stamp with
  | some t => if s.ssu.state = .unset then s.takeStamp t else s
  | none => s

/-- R15, R82, R90: a DUMP-END from another station, taken by the Join Unit and the Site Stamp Unit. -/
def State.takeDumpEnd (s : State) (d : Addr) (frames entries : Nat) (stamp : Option Stamp) : State :=
  let answered :=
    if s.mode = .joining then s.testDumpEnd d frames entries else if frames = 0 then s.takeOpening else s
  answered.takeDumperStamp stamp

/-! ### Row actions -/

/-- R107, R169: the mode leaves SERVICE, with the abort that calls for. -/
def State.leaveService (s : State) (m : PostMode) : State := (s.setMode m).abort

/-- R169: MAINTAIN-ENTER in SERVICE or HOLD. -/
def State.maintainEnter (s : State) : State :=
  let next : PostMode := if s.allBaysIdle then .maintenance else .closing
  match s.mode with
  | .service => s.leaveService next
  | .hold => s.setMode next
  | _ => s

/-- R132: FAULT-CLEAR at one bay. -/
def State.clearFault (s : State) (b : Bay) : State :=
  if (s.bay b).state = .faulted ∧ s.wantsDrive b = false then
    ((s.updateBay b (fun r => { r with fault := none })).placeLight b .shut).calibrate b
  else s

/-- R130: SERVICE-OPEN at one bay. -/
def State.openService (s : State) (b : Bay) : State :=
  if ((s.bay b).state = .docked ∨ (s.bay b).state = .empty) ∧ s.runsAt b = false then
    ((s.withdraw b).updateBay b (fun r => { r with state := .serviceOpen })).requestRun b (.role .serviceOpen)
  else s

/-- R131: SERVICE-CLOSE at one bay. -/
def State.closeService (s : State) (b : Bay) : State :=
  if (s.bay b).state = .serviceOpen ∧ s.wantsDrive b = false then
    if (s.input b).presence then s.requestRun b (.role .serviceClose)
    else (s.updateBay b BayRecord.noBike).enterEmpty b
  else s

/-- R126: RELATCH-OPEN at one bay. -/
def State.relatchOpen (s : State) (b : Bay) : State :=
  if (s.bay b).state = .opened then s.beginRelatch b .relatchAction else s

/-- R122: a PATROL run requested at one bay that qualifies. -/
def State.patrolBay (s : State) (b : Bay) : State := if s.patrols b then s.requestRun b (.role .patrol) else s

/-- R171: the mode condition of an actuating action. -/
def RowAction.admitted (a : RowAction) (m : PostMode) : Bool :=
  match a with
  | .faultClear | .serviceOpen | .serviceClose | .restart => m == .maintenance
  | .relatchOpen | .patrolNow => m.working
  | .hold | .resume | .maintainEnter | .maintainExit | .hush | .unhush => false

/-- R171: an actuating action is applied, to the bays its argument names (R168). -/
def State.applyAction (s : State) (a : RowAction) (bay : Option Bay) : State :=
  if a.admitted s.mode then
    let bays := s.baysNamed bay
    match a with
    | .faultClear => bays.foldl (fun x b => x.clearFault b) s
    | .serviceOpen => bays.foldl (fun x b => x.openService b) s
    | .serviceClose => bays.foldl (fun x b => x.closeService b) s
    | .relatchOpen => bays.foldl (fun x b => x.relatchOpen b) s
    | .patrolNow => bays.foldl (fun x b => x.patrolBay b) s
    | .restart => s.applyRestart
    | .hold | .resume | .maintainEnter | .maintainExit | .hush | .unhush => s
  else s

/-- R168: the bay argument an action keeps: RESTART is taken as without it. -/
def RowAction.keeps (a : RowAction) (bay : Option Bay) : Option Bay := if a = .restart then none else bay

/-- The delay of every record at this post, in ms (R170). -/
def State.actionDelayMs (s : State) : Nat := s.strap.toNat * s.cfg.actionStaggerMs

/-- The record holds this action and bay argument. -/
def DelayRecord.is (a : RowAction) (bay : Option Bay) (r : DelayRecord) : Bool := r.action == a && r.bay == bay

/-- R170: an actuating action is placed in the delay list, replacing its like, or dropped at a full list; a delay of 0
expires at once. -/
def State.delayAction (s : State) (a : RowAction) (arg : Option Bay) : State :=
  let bay := a.keeps arg
  let others := s.delays.filter (fun r => !r.is a bay)
  if s.actionDelayMs = 0 then s.applyAction a bay
  else if others.length < Config.delayCap then s.setDelays (others ++ [⟨a, bay, s.actionDelayMs⟩])
  else s.raise .post .actionDropped

/-- The bit of the action mask (R186): code c has bit c − 1. -/
def RowAction.bit : RowAction → Nat
  | .hold => 0
  | .resume => 1
  | .maintainEnter => 2
  | .maintainExit => 3
  | .hush => 4
  | .unhush => 5
  | .faultClear => 6
  | .serviceOpen => 7
  | .serviceClose => 8
  | .relatchOpen => 9
  | .patrolNow => 10
  | .restart => 11

/-- R168: the action's code is in the configured mask. -/
def State.inMask (s : State) (a : RowAction) : Bool := s.cfg.actionMask.getLsbD a.bit

end Sys2Proof.Machine
end

