-- ==== Sys2Proof/Machine/Line.lean ====
section
/-! DEFINITION. Line: the post's own attempts on the row line (R37 to R45, R55). -/

namespace Sys2Proof.Machine

/-! ### Send start -/

/-- An attempt starts at the head of a queue (R38, R43). -/
def State.startAttempt (s : State) (side : QueueSide) (settled : Settled) : State :=
  s.setAttempt (some ⟨.arbitrating, side, 0, settled, false⟩)

/-- R133, R167: a bay's summary. -/
def State.summary (s : State) (b : Bay) : BaySummary := ⟨(s.bay b).state, (s.bay b).bikeId, s.pendingCount b⟩

/-- R167: what a STATUS-REPLY carries beside the mode. -/
def State.statusBody (s : State) : StatusBody :=
  { stampState := s.ssu.state
    stamp := s.ssu.stamp
    bays := ⟨s.summary 0, s.summary 1, s.summary 2, s.summary 3⟩
    writerSegment := s.writerSegment
    flags := s.store.flags
    blocked := s.blocked
    attentionCount := s.aq.queue.length + s.aq.waiting.length
    attention := s.aq.queue.head?.map QueuedAttention.att }

/-- R167: a STATUS-REPLY's contents; in CONFIG-FAULT the mode alone. -/
def State.settleStatus (s : State) : Settled :=
  .status s.mode (if s.mode = .configFault then none else some s.statusBody)

/-- R43: the contents of the service queue's head. -/
def State.settleService (s : State) (f : Frame) : Settled :=
  match f with
  | .statusReply _ _ => s.settleStatus
  | _ => .fixed

/-- R86: a DUMP-END's contents. -/
def State.settleDumpEnd (s : State) : Settled := .dumpEnd s.ju.framesSent s.ju.entriesSent s.ssu.state s.ssu.stamp

/-- What one choice at a send start comes to (R43): no frame; a frame at the head of a queue with its contents; or a
withdrawal, after which the choice is made again. -/
inductive Choice where
  | nothing
  | offered (side : QueueSide) (settled : Settled)
  | again (s : State)

/-- R43: one choice. A CLAIM that fails its check is withdrawn (R61), and a DUMP whose read is empty gives its place to a
DUMP-END (R84). -/
def State.choose (s : State) : Choice :=
  match s.rlc.protocol, s.rlc.service with
  | [], [] => .nothing
  | [], q :: _ => .offered .service (s.settleService q.frame)
  | q :: rest, _ =>
    match q.frame with
    | .claim t _ _ => if s.claimStands t then .offered .protocol .fixed else .again (s.setProtocol rest)
    | .dump =>
      let read := s.readTable s.ju.cursor
      if read.1.isEmpty then .again ((s.setProtocol rest).queueProtocol .dumpEnd)
      else .offered .protocol (.dump s.ju.nextSeq read.1 read.2)
    | .dumpEnd => .offered .protocol s.settleDumpEnd
    | _ => .offered .protocol .fixed

/-- R43: the choices of one send start; each withdrawal uses one of `fuel`. -/
def State.offer (fuel : Nat) (s : State) : State :=
  match fuel with
  | 0 => s
  | n + 1 =>
    match s.choose with
    | .nothing => s
    | .offered side settled => s.startAttempt side settled
    | .again x => State.offer n x

/-- As many choices as one send start can need: a withdrawal takes a CLAIM out or turns a DUMP into a DUMP-END. -/
def State.offerFuel (s : State) : Nat := 2 * s.rlc.protocol.length + 1

/-- SEND_START (R43). -/
def execSendStart (s : State) : Host.Outcome State Fault Refusal :=
  .next (if s.mode != .starting && s.rlc.attempt.isNone then State.offer s.offerFuel s else s)

/-! ### Arbitration -/

/-- END_OF_ARBITRATION_FIELD (R38). -/
def execEndOfArbitrationField (s : State) : Host.Outcome State Fault Refusal :=
  .next (match s.rlc.attempt with
    | some a => if a.phase = .arbitrating then s.setAttempt (some { a with phase := .sending }) else s
    | none => s)

/-- R38, R45: an attempt ends by arbitration loss: the frame keeps its place and count, or leaves where its producer has
removed it. -/
def State.loseAttempt (s : State) (a : Attempt) : State := if a.removed then s.dropAttempt a else s.setAttempt none

/-- ARBITRATION_LOST (R38, R179). -/
def execArbitrationLost (s : State) : Host.Outcome State Fault Refusal :=
  .next (match s.rlc.attempt with
    | some a => if a.phase = .arbitrating then (s.loseAttempt a).afterAttempt else s
    | none => s)

/-! ### Vetoes and drops -/

/-- The code raised at a drop (R44). -/
def Frame.dropCode (f : Frame) : Code := if f.kind = .object then .objectionDropped else .frameDropped

/-- R80: a JOIN dropped in ANNOUNCING is queued afresh. -/
def State.joinDropped (s : State) : State := if s.ju.join = .announcing then s.queueProtocol .join else s

/-- The producer's effect at a drop (R44). -/
def State.producerDropped (s : State) (f : Frame) : State :=
  match f with
  | .claim t _ _ => s.claimDropped t
  | .object t c _ => s.forgetObjection t c
  | .join => s.joinDropped
  | .dump => s.endDump
  | .dumpEnd => s.endDump
  | .lapse _ _ => s
  | .logReady _ _ => s.offerNotice
  | .logData _ _ _ _ _ _ _ => s.offerNotice
  | .statusReply _ _ => s.offerNotice
  | .notice _ => s.offerNotice

/-- R164: at a NOTICE's drop its entry loses its mark. -/
def State.noticeUnmarked (s : State) (f : Frame) : State := if f.kind = .notice then s.clearNoticed else s

/-- R44: a frame is dropped at its eighth veto. -/
def State.dropFrame (s : State) (a : Attempt) (f : Frame) : State :=
  ((((s.dropAttempt a).noticeUnmarked f).raise .line f.dropCode).producerDropped f).closingCheck

/-- R44, R45: the attempt's frame has been vetoed. -/
def State.vetoAttempt (s : State) (a : Attempt) (q : Queued) : State :=
  if a.removed then s.dropAttempt a
  else if q.vetoes < Config.lastVetoCount then s.countVeto a
  else s.dropFrame a q.frame

/-- R39, R44: the post's own frame has been vetoed; a readback mismatch makes the post drive the slot and raise. -/
def State.ownVetoed (s : State) (readback : Bool) : State :=
  match s.rlc.attempt with
  | none => s
  | some a =>
    match a.phase, s.attemptFrame a with
    | .sending, some q =>
      let seen := (if readback then s.raise .line .duplicateAddress else s).setVeto readback
      (seen.vetoAttempt a q).afterAttempt
    | _, _ => s

/-- The post hears frames of other stations: out of STARTING (R37), with no attempt of its own (R45). -/
def State.hearing (s : State) : Bool := s.mode != .starting && s.rlc.attempt.isNone

/-- FRAME_VETOED (R40, R44): the post drives the veto slot of another station's frame it finds damaged. -/
def execFrameVetoed (frame : VetoedFrame) (s : State) : Host.Outcome State Fault Refusal :=
  .next (match frame with
    | .own readback => s.ownVetoed readback
    | .other levels => if s.hearing then s.setVeto (damaged levels) else s)

/-- FRAME_CUT_OFF (R41): what was received is discarded, and no veto slot is driven; the post keeps nothing of a frame
before its veto slot (log 29). -/
def execFrameCutOff (s : State) : Host.Outcome State Fault Refusal := .next s

/-! ### Echoes -/

/-- R42: the echo of the frame of this kind being sent: the frame leaves its queue, the attempt ends, the producer's effect
follows, then a restart that is due (R179). -/
def State.echo (s : State) (k : FrameKind) (effect : Frame → Settled → State → State) : State :=
  match s.rlc.attempt with
  | none => s
  | some a =>
    match a.phase, s.attemptFrame a with
    | .sending, some q =>
      if q.frame.kind = k then (effect q.frame a.settled ((s.setVeto false).dropAttempt a)).afterAttempt else s
    | _, _ => s

/-- R62. -/
def claimEchoEffect (f : Frame) (_ : Settled) (s : State) : State :=
  match f with
  | .claim t _ _ => s.claimEchoed t
  | _ => s

/-- R69. -/
def objectEchoEffect (f : Frame) (_ : Settled) (s : State) : State :=
  match f with
  | .object t c _ => s.forgetObjection t c
  | _ => s

/-- R65: the frame is sent, and nothing more. -/
def lapseEchoEffect (_ : Frame) (_ : Settled) (s : State) : State := s

/-- R80. -/
def joinEchoEffect (_ : Frame) (_ : Settled) (s : State) : State :=
  if s.ju.join = .announcing then s.setJu { s.ju with join := .listening } else s

/-- R85. -/
def dumpEchoEffect (_ : Frame) (settled : Settled) (s : State) : State :=
  match settled with
  | .dump _ entries next =>
    (s.setJu
      { s.ju with
        framesSent := s.ju.framesSent + 1, entriesSent := s.ju.entriesSent + entries.length, cursor := next,
        nextSeq := s.ju.nextSeq + 1 }).queueProtocol (if next = .atEnd then .dumpEnd else .dump)
  | _ => s

/-- R86. -/
def dumpEndEchoEffect (_ : Frame) (_ : Settled) (s : State) : State := s.endDump

/-- R150, R163. -/
def logReadyEchoEffect (_ : Frame) (_ : Settled) (s : State) : State := s.offerNotice

/-- R156: the cursor of a segment is moved, and in AUTO mode a segment read to its end is cleared. -/
def State.moveCursor (s : State) (segment cursor : Nat) : State :=
  let moved := s.setStore { s.store with cursors := s.store.cursors.set segment cursor }
  if s.cfg.clearMode = .auto ∧ cursor = s.segmentSize then moved.clearSegment segment else moved

/-- R156, R163. -/
def logDataEchoEffect (f : Frame) (_ : Settled) (s : State) : State :=
  match f with
  | .logData _ segment start records _ _ advancing =>
    let g := segment.toNat
    (if advancing && s.flagged g && s.store.cursors.getD g 0 == start.toNat then
      s.moveCursor g (start.toNat + records.length) else s).offerNotice
  | _ => s

/-- R167: the STATUS-REPLY carried an attention entry. -/
def Settled.carriesEntry : Settled → Bool
  | .status _ (some body) => body.attention.isSome
  | _ => false

/-- R163, R167. -/
def statusReplyEchoEffect (f : Frame) (settled : Settled) (s : State) : State :=
  match f with
  | .statusReply _ take => if take && settled.carriesEntry then s.takeOldest else s.offerNotice
  | _ => s

/-- R164. -/
def noticeEchoEffect (_ : Frame) (_ : Settled) (s : State) : State := s.noticeSent

/-- CLAIM_ECHO (R62). -/
def execClaimEcho (s : State) : Host.Outcome State Fault Refusal := .next (s.echo .claim claimEchoEffect)

/-- OBJECT_ECHO (R69). -/
def execObjectEcho (s : State) : Host.Outcome State Fault Refusal := .next (s.echo .object objectEchoEffect)

/-- LAPSE_ECHO (R65). -/
def execLapseEcho (s : State) : Host.Outcome State Fault Refusal := .next (s.echo .lapse lapseEchoEffect)

/-- JOIN_ECHO (R80). -/
def execJoinEcho (s : State) : Host.Outcome State Fault Refusal := .next (s.echo .join joinEchoEffect)

/-- DUMP_ECHO (R85). -/
def execDumpEcho (s : State) : Host.Outcome State Fault Refusal := .next (s.echo .dump dumpEchoEffect)

/-- DUMP_END_ECHO (R86). -/
def execDumpEndEcho (s : State) : Host.Outcome State Fault Refusal := .next (s.echo .dumpEnd dumpEndEchoEffect)

/-- LOG_READY_ECHO (R150). -/
def execLogReadyEcho (s : State) : Host.Outcome State Fault Refusal := .next (s.echo .logReady logReadyEchoEffect)

/-- LOG_DATA_ECHO (R156). -/
def execLogDataEcho (s : State) : Host.Outcome State Fault Refusal :=
  .next (s.echo .logData (fun f settled x => (logDataEchoEffect f settled x).closingCheck))

/-- STATUS_REPLY_ECHO (R167). -/
def execStatusReplyEcho (s : State) : Host.Outcome State Fault Refusal := .next (s.echo .statusReply statusReplyEchoEffect)

/-- NOTICE_ECHO (R164). -/
def execNoticeEcho (s : State) : Host.Outcome State Fault Refusal := .next (s.echo .notice noticeEchoEffect)

end Sys2Proof.Machine
end

