-- ==== Sys2Proof/Machine/Frames.lean ====
section
/-! DEFINITION. Frames: frames of other stations, other than row actions (R39, R51 to R54). -/

namespace Sys2Proof.Machine

/-- R51, R52, R53: the tests 1 (the rank), 2, 3, 4 and 5. The gateway test needs a configuration and is not made in
CONFIG-FAULT, where STATUS-QUERY alone is handed on. -/
def State.admits (s : State) (k : FrameKind) (f : RowFrame) : Bool :=
  f.rank.toNat == k.rank && k.allows f.dest && destinationNames f.dest s.strap
    && (s.mode == .configFault || !k.gatewayOnly || f.source == s.cfg.gateway)
    && (s.mode.working || (s.mode == .configFault && k == .statusQuery))

/-- The reception of a frame of kind `k` whose payload reads as `payload` (R39, R51, R54): a frame with the post's own
address as its source is discarded and raises; one that passes the tests is handed on. -/
def State.receive {α : Type} (s : State) (k : FrameKind) (f : RowFrame) (payload : Option α) (act : α → State → State) :
    State :=
  if s.hearing then
    let heard := s.setVeto false
    if f.source = s.strap then heard.raise .line .duplicateAddress
    else
      match payload with
      | none => heard
      | some x => if s.admits k f then act x heard else heard
  else s

/-- CLAIM (R66). -/
def execClaim (f : RowFrame) (s : State) : Host.Outcome State Fault Refusal :=
  .next (s.receive .claim f (readClaim f.payload) (fun p x => (x.takeClaim f.source p.1 p.2.1 p.2.2).closingCheck))

/-- OBJECT (R70). -/
def execObject (f : RowFrame) (s : State) : Host.Outcome State Fault Refusal :=
  .next (s.receive .object f (readObject f.payload) (fun p x => (x.takeObject p.1 p.2).closingCheck))

/-- LAPSE (R72). -/
def execLapse (f : RowFrame) (s : State) : Host.Outcome State Fault Refusal :=
  .next (s.receive .lapse f (readLapse f.payload) (fun t x => x.takeLapse f.source t))

/-- REVOKE (R73). -/
def execRevoke (f : RowFrame) (s : State) : Host.Outcome State Fault Refusal :=
  .next (s.receive .revoke f (readRevoke f.payload) (fun p x => (x.takeRevoke p.1 p.2).closingCheck))

/-- R13: a BEACON with site time T. -/
def State.takeBeacon (s : State) (t : Stamp) : State :=
  match s.ssu.state, s.ssu.stamp with
  | .unset, _ => s.takeStamp t
  | _, none => s.takeStamp t
  | _, some stamp =>
    if stamp.toNat < t.toNat then s.takeStamp t
    else if t = stamp then
      s.setSsu ⟨some stamp, .set, some s.beaconLossMs, some Config.secondMs⟩
    else (s.setSsu { s.ssu with state := .set, beaconLoss := some s.beaconLossMs }).raise .stamp .clockAhead

/-- BEACON (R13). -/
def execBeacon (f : RowFrame) (s : State) : Host.Outcome State Fault Refusal :=
  .next (s.receive .beacon f (readBeacon f.payload) (fun t x => x.takeBeacon t))

/-- JOIN (R81). -/
def execJoin (f : RowFrame) (s : State) : Host.Outcome State Fault Refusal :=
  .next (s.receive .join f (readJoin f.payload) (fun _ x => x.takeJoin))

/-- DUMP (R82, R88, R89). -/
def execDump (f : RowFrame) (s : State) : Host.Outcome State Fault Refusal :=
  .next (s.receive .dump f (readDump f.payload) (fun p x => x.takeDump f.source p.1 p.2))

/-- DUMP_END (R15, R82, R90). -/
def execDumpEnd (f : RowFrame) (s : State) : Host.Outcome State Fault Refusal :=
  .next (s.receive .dumpEnd f (readDumpEnd f.payload) (fun p x => x.takeDumpEnd f.source p.1 p.2.1 p.2.2))

/-- R155: the slots of a segment from a start index on, at most `count`: clipped at the end of the segment, and at the
writer position in the current segment. -/
def State.fetchSlots (s : State) (segment start count : Nat) : List (Option RentalRecord) :=
  let first := segment * s.segmentSize
  let last := if segment = s.writerSegment ∧ s.flagged segment = false then s.store.writer - first else s.segmentSize
  (s.store.slots.drop (first + start)).take (min count (last - start))

/-- R155: the records sent: up to the first empty slot. -/
def State.fetched (s : State) (segment start count : Nat) : List RentalRecord :=
  ((s.fetchSlots segment start count).takeWhile Option.isSome).filterMap id

/-- R155: the LOG-DATA that answers a fetch within range. -/
def State.fetchAnswer (s : State) (requester : Addr) (segment : Byte) (start count : Nat) : Frame :=
  let g := segment.toNat
  let records := s.fetched g start count
  .logData requester segment (BitVec.ofNat 16 start) records
    (!records.isEmpty && start + records.length == s.segmentSize) none
    (s.flagged g && s.store.cursors.getD g 0 == start && !records.isEmpty)

/-- R155, R157: a LOG-DATA without records, its end-of-segment mark clear. A RANGE refusal of a LOG-FETCH carries the
segment and start index of the fetch, which R155 does not say (log 35). -/
def emptyAnswer (requester : Addr) (segment : Byte) (start : Nat) (refusal : Option Refused) : Frame :=
  .logData requester segment (BitVec.ofNat 16 start) [] false refusal false

/-- R155: a LOG-FETCH is answered. -/
def State.takeLogFetch (s : State) (requester : Addr) (segment : Byte) (start count : Nat) : State :=
  s.queueService
    (if s.cfg.segments ≤ segment.toNat ∨ s.segmentSize ≤ start then emptyAnswer requester segment start (some .range)
     else s.fetchAnswer requester segment start count)

/-- LOG_FETCH (R155). -/
def execLogFetch (f : RowFrame) (s : State) : Host.Outcome State Fault Refusal :=
  .next (s.receive .logFetch f (readLogFetch f.payload) (fun p x => x.takeLogFetch f.source p.1 p.2.1 p.2.2))

/-- R157: a LOG-CLEAR is answered; the clearing is made only when its answer is queued. -/
def State.takeLogClear (s : State) (requester : Addr) (segment : Byte) : State :=
  let g := segment.toNat
  if s.cfg.segments ≤ g then s.queueService (emptyAnswer requester segment 0 (some .range))
  else if s.flagged g then
    if s.serviceRoom then (s.queueService (emptyAnswer requester segment 0 none)).clearSegment g else s
  else s.queueService (emptyAnswer requester segment 0 (some .notReady))

/-- LOG_CLEAR (R157). -/
def execLogClear (f : RowFrame) (s : State) : Host.Outcome State Fault Refusal :=
  .next (s.receive .logClear f (readLogClear f.payload) (fun g x => (x.takeLogClear f.source g).closingCheck))

/-- STATUS_QUERY (R166). -/
def execStatusQuery (f : RowFrame) (s : State) : Host.Outcome State Fault Refusal :=
  .next (s.receive .statusQuery f (readStatusQuery f.payload) (fun take x => x.queueService (.statusReply f.source take)))

/-- The frame kind of a discarded service frame. -/
def serviceKind : ServiceKind → FrameKind
  | .logReady => .logReady
  | .logData => .logData
  | .statusReply => .statusReply
  | .notice => .notice

/-- SERVICE_FRAME_DISCARDED (R54): no block answers these kinds. -/
def execServiceFrameDiscarded (kind : ServiceKind) (f : RowFrame) (s : State) : Host.Outcome State Fault Refusal :=
  .next (s.receive (serviceKind kind) f (some ()) (fun _ x => x))

/-- OWN_ADDRESS_FRAME_RECEIVED (R39). -/
def execOwnAddressFrameReceived (s : State) : Host.Outcome State Fault Refusal :=
  .next (if s.hearing then (s.setVeto false).raise .line .duplicateAddress else s)

/-- UNKNOWN_KIND_FRAME (R40, R51): discarded at test 1 without effect, once the own-address test is passed. The kind code
makes no difference. -/
def execUnknownKindFrame (_kind : Byte) (f : RowFrame) (s : State) : Host.Outcome State Fault Refusal :=
  .next (if s.hearing then
      if f.source = s.strap then (s.setVeto false).raise .line .duplicateAddress else s.setVeto false
    else s)

end Sys2Proof.Machine
end

