-- ==== Sys2Proof/Machine/Actions.lean ====
section
/-! DEFINITION. Actions: the twelve row actions at their reception (R168 to R170). -/

namespace Sys2Proof.Machine

/-- R168: an ACTION frame whose code is in the mask is taken, with its bay argument. -/
def State.receiveAction (s : State) (a : RowAction) (f : RowFrame) (act : Option Bay → State → State) : State :=
  s.receive .action f (readAction f.payload) (fun bay x => if x.inMask a then (act bay x).closingCheck else x)

/-- R170: an actuating action's reception. -/
def State.receiveActuating (s : State) (a : RowAction) (f : RowFrame) : State :=
  s.receiveAction a f (fun bay x => x.delayAction a bay)

/-- HOLD (R169). -/
def execHold (f : RowFrame) (s : State) : Host.Outcome State Fault Refusal :=
  .next (s.receiveAction .hold f (fun _ x => if x.mode = .service then x.leaveService .hold else x))

/-- RESUME (R169). -/
def execResume (f : RowFrame) (s : State) : Host.Outcome State Fault Refusal :=
  .next (s.receiveAction .resume f (fun _ x => if x.mode = .hold then x.setMode .service else x))

/-- MAINTAIN_ENTER (R169). -/
def execMaintainEnter (f : RowFrame) (s : State) : Host.Outcome State Fault Refusal :=
  .next (s.receiveAction .maintainEnter f (fun _ x => x.maintainEnter))

/-- MAINTAIN_EXIT (R169). -/
def execMaintainExit (f : RowFrame) (s : State) : Host.Outcome State Fault Refusal :=
  .next (s.receiveAction .maintainExit f (fun _ x =>
    if x.mode = .closing ∨ x.mode = .maintenance then x.setMode .service else x))

/-- HUSH (R165, R169). -/
def execHush (f : RowFrame) (s : State) : Host.Outcome State Fault Refusal :=
  .next (s.receiveAction .hush f (fun _ x => x.setAq { x.aq with hush := true }))

/-- UNHUSH (R165, R169): an offer is tested. -/
def execUnhush (f : RowFrame) (s : State) : Host.Outcome State Fault Refusal :=
  .next (s.receiveAction .unhush f (fun _ x => (x.setAq { x.aq with hush := false }).offerNotice))

/-- FAULT_CLEAR (R170). -/
def execFaultClear (f : RowFrame) (s : State) : Host.Outcome State Fault Refusal := .next (s.receiveActuating .faultClear f)

/-- SERVICE_OPEN (R170). -/
def execServiceOpen (f : RowFrame) (s : State) : Host.Outcome State Fault Refusal := .next (s.receiveActuating .serviceOpen f)

/-- SERVICE_CLOSE (R170). -/
def execServiceClose (f : RowFrame) (s : State) : Host.Outcome State Fault Refusal :=
  .next (s.receiveActuating .serviceClose f)

/-- RELATCH_OPEN (R170). -/
def execRelatchOpen (f : RowFrame) (s : State) : Host.Outcome State Fault Refusal := .next (s.receiveActuating .relatchOpen f)

/-- PATROL_NOW (R170). -/
def execPatrolNow (f : RowFrame) (s : State) : Host.Outcome State Fault Refusal := .next (s.receiveActuating .patrolNow f)

/-- RESTART (R170). -/
def execRestart (f : RowFrame) (s : State) : Host.Outcome State Fault Refusal := .next (s.receiveActuating .restart f)

end Sys2Proof.Machine
end

