-- ==== Sys2Proof/Machine/Reset.lean ====
section
/-! DEFINITION. Reset: POWER_ON, RESET_PIN and END_OF_START_UP (R173 to R176). -/

namespace Sys2Proof.Machine

/-- R173, R180: every block at its power-on values, the strap pins read; pins and the commands waiting are outside the post
and stay (log 7, log 30). -/
def State.powerOnReset (s : State) (strap : Addr) : State :=
  { State.reset with strap := strap, inputs := s.inputs, cold := s.cold, pending := s.pending }

/-- POWER_ON (R173, R180). -/
def execPowerOn (strap : Addr) (s : State) : Host.Outcome State Fault Refusal := .next (s.powerOnReset strap)

/-- RESET_PIN (R173, R180): the release of the pin. -/
def execResetPin (strap : Addr) (s : State) : Host.Outcome State Fault Refusal := .next (s.powerOnReset strap)

/-- END_OF_START_UP (R174 to R176). -/
def execEndOfStartUp (memory : Option (List Byte)) (s : State) : Host.Outcome State Fault Refusal :=
  .next (if s.mode = .starting then s.endStartUp (imageOf s.strap memory) else s)

end Sys2Proof.Machine
end

