-- ==== Sys2Proof/Machine/RunEvents.lean ====
section
/-! DEFINITION. RunEvents: the boundaries of the run in progress (R140 to R143). A boundary of another kind than the step in
progress has is no event of the post and changes nothing (log 3). -/

namespace Sys2Proof.Machine

/-- The step in progress moves the bolt. -/
def Step.moves (st : Step) : Bool :=
  match st.action with
  | .out _ => true
  | .inward _ => true
  | .dwell _ => false
  | .sense => false

/-- The step in progress is a DWELL. -/
def Step.dwells (st : Step) : Bool :=
  match st.action with
  | .dwell _ => true
  | .out _ => false
  | .inward _ => false
  | .sense => false

/-- R142: a boundary of the run's step, where the step is of the kind named. -/
def State.boundary (s : State) (kind : Step → Bool) : State :=
  match s.run with
  | none => s
  | some r =>
    match r.step with
    | some st => if kind st then (s.stepBoundary r st).closingCheck else s
    | none => s

/-- FAULT_RESET_PULSE_END (R140). -/
def execFaultResetPulseEnd (s : State) : Host.Outcome State Fault Refusal :=
  .next (match s.run with
    | some r => if r.index = 0 then (s.pulseEnd r).closingCheck else s
    | none => s)

/-- BOLT_STEP_END (R142). -/
def execBoltStepEnd (s : State) : Host.Outcome State Fault Refusal := .next (s.boundary Step.moves)

/-- DWELL_END (R135). -/
def execDwellEnd (s : State) : Host.Outcome State Fault Refusal := .next (s.boundary Step.dwells)

/-- SENSE_READING (R136). -/
def execSenseReading (s : State) : Host.Outcome State Fault Refusal := .next (s.boundary (fun st => st.action == .sense))

end Sys2Proof.Machine
end

