-- ==== Sys2Proof/Machine/Sensors.lean ====
section
/-! DEFINITION. Sensors: changes at the bays' inputs, the COLD input and the tag contact (R112, R115, R118 to R128). -/

namespace Sys2Proof.Machine

/-- R112: a sensor's change to a level, answered in the modes in which sensor changes are taken (R173, R176). -/
def State.sensed (s : State) (b : Bay) (sensor : Sensor) (level : Bool) (act : State → State) : State :=
  if (s.input b).level sensor = level then s
  else
    let changed := s.setInput b ((s.input b).setLevel sensor level)
    if changed.mode.working then act changed else changed

/-- PRESENCE_RISING (R112): no rule answers it. -/
def execPresenceRising (b : Bay) (s : State) : Host.Outcome State Fault Refusal :=
  .next (s.sensed b .presence true (fun x => x))

/-- PRESENCE_FALLING (R118, R121, R125, R128). -/
def execPresenceFalling (b : Bay) (s : State) : Host.Outcome State Fault Refusal :=
  .next (s.sensed b .presence false (fun x => (x.presenceFell b).closingCheck))

/-- SEAT_RISING (R119). -/
def execSeatRising (b : Bay) (s : State) : Host.Outcome State Fault Refusal :=
  .next (s.sensed b .seat true (fun x => (x.tryDock b).closingCheck))

/-- SEAT_FALLING (R118, R120, R121). -/
def execSeatFalling (b : Bay) (s : State) : Host.Outcome State Fault Refusal :=
  .next (s.sensed b .seat false (fun x => (x.seatFell b).closingCheck))

/-- HOME_RISING (R112): no rule answers it. -/
def execHomeRising (b : Bay) (s : State) : Host.Outcome State Fault Refusal := .next (s.sensed b .home true (fun x => x))

/-- HOME_FALLING (R121). -/
def execHomeFalling (b : Bay) (s : State) : Host.Outcome State Fault Refusal :=
  .next (s.sensed b .home false (fun x => (x.latchLost b .latchFail).closingCheck))

/-- CLEAR_RISING (R112): no rule answers it. -/
def execClearRising (b : Bay) (s : State) : Host.Outcome State Fault Refusal := .next (s.sensed b .clear true (fun x => x))

/-- CLEAR_FALLING (R112): no rule answers it. -/
def execClearFalling (b : Bay) (s : State) : Host.Outcome State Fault Refusal := .next (s.sensed b .clear false (fun x => x))

/-- The driver-fault input's change to a level. -/
def State.driverInput (s : State) (b : Bay) (level : Bool) : State := s.setInput b { s.input b with driverFault := level }

/-- DRIVER_FAULT_RISING (R121). -/
def execDriverFaultRising (b : Bay) (s : State) : Host.Outcome State Fault Refusal :=
  .next (if (s.input b).driverFault then s
    else
      let changed := s.driverInput b true
      if changed.mode.working then (changed.latchLost b .driverFault).closingCheck else changed)

/-- DRIVER_FAULT_FALLING (R112): no rule answers it. -/
def execDriverFaultFalling (b : Bay) (s : State) : Host.Outcome State Fault Refusal := .next (s.driverInput b false)

/-- COLD_INPUT_CHANGE (R115): a change alters no run in progress. -/
def execColdInputChange (asserted : Bool) (s : State) : Host.Outcome State Fault Refusal := .next (s.setCold asserted)

/-- TAG_READ_ATTEMPT_COMPLETION (R118, R184). -/
def execTagReadAttemptCompletion (b : Bay) (answer : List Byte) (s : State) : Host.Outcome State Fault Refusal :=
  .next (match (s.bay b).tagRead with
    | some attempt => (s.tagAttempt b attempt (readTag answer)).closingCheck
    | none => s)

end Sys2Proof.Machine
end

