-- ==== Sys2Proof/Machine/Taps.lean ====
section
/-! DEFINITION. Taps: the tap link and the tap transaction's own events (R1 to R10, R93 to R99, R109). -/

namespace Sys2Proof.Machine

/-! ### Collecting -/

/-- START_MARKER (R94, R96, R98). A marker in IDLE abandons a second presentation still collected (R94) and begins a
transaction. -/
def execStartMarker (s : State) : Host.Outcome State Fault Refusal :=
  .next (if s.mode = .starting then s
    else
      match s.tap.phase with
      | .idle =>
        s.setTap { s.tap with
          phase := .intake, collecting := some .transaction, intake := some Config.intakeMs, kept := none }
      | .intake => s.setTap { s.tap with collecting := some .transaction, intake := some Config.intakeMs }
      | _ => s.setTap { s.tap with collecting := some .second, intake := some Config.intakeMs })

/-- Collection is over (R94, R98). -/
def State.stopCollecting (s : State) : State := s.setTap { s.tap with intake := none, collecting := none, kept := none }

/-- R94, R96, R98: the PRESENT being collected is found unreadable. -/
def State.unreadable (s : State) : State :=
  match s.tap.collecting with
  | some .transaction => s.stopCollecting.endTransaction (if s.tap.closed then .postClosed else .malformed)
  | some .second => s.stopCollecting.answerSecond .malformed
  | none => s

/-- WRONG_LENGTH_BYTE (R94). -/
def execWrongLengthByte (len : Byte) (s : State) : Host.Outcome State Fault Refusal :=
  .next (if len = 31#8 then s else s.unreadable)

/-- INTAKE_TIMER_EXPIRY (R94). -/
def execIntakeTimerExpiry (s : State) : Host.Outcome State Fault Refusal :=
  .next (if s.tap.intake.isSome then s.unreadable else s)

/-! ### Intake tests -/

/-- R2: the token is malformed. -/
def Token.malformed (t : Token) : Bool :=
  t.id == 0 || (32 ≤ t.targetPost.toNat && t.targetPost.toNat ≤ 254) || (4 ≤ t.targetBay.toNat && t.targetBay.toNat ≤ 254)
    || (4 ≤ t.cls.toNat && t.cls.toNat ≤ 14) || t.notAfter.toNat < t.notBefore.toNat

/-- R5: the window test with stamp s and skew k. -/
def Token.window (t : Token) (stamp : Stamp) (skew : Nat) : Option Verdict :=
  if stamp.toNat + skew < t.notBefore.toNat then some .tooEarly
  else if t.notAfter.toNat + skew < stamp.toNat then some .expired
  else none

/-- R3, R5: the stamp state and window tests. -/
def State.timeTest (s : State) (t : Token) : Option Verdict :=
  match s.ssu.state, s.ssu.stamp with
  | .unset, _ => some .noTime
  | _, none => some .noTime
  | _, some stamp => t.window stamp s.cfg.skewS

/-- R97: the first intake test that fails gives the verdict; none where all seven pass. -/
def State.intakeVerdict (s : State) (t : Token) : Option Verdict :=
  if t.malformed then some .malformed
  else if t.site ≠ s.cfg.site ∧ t.site ≠ 65535#16 then some .wrongSite
  else if t.targetPost.toNat ≠ s.strap.toNat ∧ t.targetPost ≠ 255#8 then some .wrongPost
  else
    match s.timeTest t with
    | some v => some v
    | none => if s.mode ≠ .service then some .postClosed else if s.blocked then some .logFull else none

/-- R7, R97: a token that passes goes to the Token Check Unit. -/
def State.startCheck (s : State) (t : Token) : State :=
  (s.setTcu ⟨true, some t⟩).setTap { s.tap with phase := .checking, token := some t }

/-- R96, R97: a readable PRESENT of the transaction. -/
def State.intake (s : State) (t : Token) : State :=
  if s.tap.closed ∨ s.mode = .configFault then s.endTransaction .postClosed
  else
    match s.intakeVerdict t with
    | some v => s.endTransaction v
    | none => s.startCheck t

/-- R98: the token ID a second presentation is compared with. -/
def State.secondAgainst (s : State) : Option TokenId :=
  if s.tap.phase = .idle then s.tap.kept else s.tap.token.map Token.id

/-- R94, R96 to R98: the PRESENT being collected has fully arrived. -/
def State.arrived (s : State) (bytes : List Byte) : State :=
  match readPresent bytes with
  | none => s.unreadable
  | some t =>
    match s.tap.collecting with
    | some .transaction => s.stopCollecting.intake t
    | some .second => if s.secondAgainst = some t.id then s.stopCollecting else s.stopCollecting.answerSecond .busy
    | none => s

/-- PRESENT_FULLY_ARRIVED (R97, R98). -/
def execPresentFullyArrived (bytes : List Byte) (s : State) : Host.Outcome State Fault Refusal := .next (s.arrived bytes)

/-! ### Check completion -/

/-- R8, R9: the computed code equals the token's check value. -/
def State.checkMatches (s : State) (t : Token) : Bool := Config.keyedCode s.cfg.siteKey t.checkedBits == t.check

/-- R9, R30, R99: the lookup at completion, and selection where the table holds no entry. -/
def State.lookUp (s : State) (t : Token) : State :=
  match s.entry t.id with
  | some e => if e.status = .revoked then s.endTransaction .revoked else s.endTransaction .spent
  | none => s.select t

/-- R9, R99: the result of a check, taken by a transaction in CHECKING. -/
def State.checkDone (s : State) (t : Token) : State :=
  if s.tap.phase = .checking then if s.checkMatches t then s.lookUp t else s.endTransaction .badCheck else s

/-- TOKEN_CHECK_COMPLETION (R9). -/
def execTokenCheckCompletion (s : State) : Host.Outcome State Fault Refusal :=
  .next (match s.tcu.busy, s.tcu.copy with
    | true, some t => ((s.setTcu ⟨false, none⟩).checkDone t).closingCheck
    | _, _ => s)

/-! ### Messages sent -/

/-- R93: the message under transmission has been sent, and the next one begins. -/
def State.messageSent (s : State) : State := s.setLink { s.link with sending := none }.start

/-- R98, R109: the transaction returns to IDLE; a second presentation still collected keeps its token ID. -/
def State.finishTransaction (s : State) : State :=
  s.setTap
    { TapRecord.reset with
      rotation := s.tap.rotation, intake := s.tap.intake, collecting := s.tap.collecting,
      kept := if s.tap.collecting = some .second then s.tap.token.map Token.id else none }

/-- VERDICT_SENT (R109). -/
def execVerdictSent (s : State) : Host.Outcome State Fault Refusal :=
  .next (match s.link.sending with
    | some (.verdict _ .transaction) => (s.messageSent.finishTransaction).closingCheck
    | some (.verdict _ _) => s.messageSent
    | _ => s)

/-- BAY_LIGHT_SENT (R93). -/
def execBayLightSent (s : State) : Host.Outcome State Fault Refusal :=
  .next (match s.link.sending with
    | some (.bayLight _ _) => s.messageSent
    | _ => s)

end Sys2Proof.Machine
end

