-- ==== Sys2Proof/Machine/Timers.lean ====
section
/-! DEFINITION. Timers: what the post does when one of its timers runs out. An expiry of a timer that is stopped is no event
of the post and changes nothing (log 3). -/

namespace Sys2Proof.Machine

/-- ACTION_DELAY_EXPIRY (R171): the oldest record's delay, since all delays at a post are equal (R170; log 31). -/
def execActionDelayExpiry (s : State) : Host.Outcome State Fault Refusal :=
  .next (match s.delays with
    | r :: rest => ((s.setDelays rest).applyAction r.action r.bay).closingCheck
    | [] => s)

/-- R12: the stamp advances by one below its maximum, with the sweep, and the next interval starts. -/
def State.advance (s : State) (stamp : Stamp) : State :=
  let started := s.setSsu { s.ssu with second := some Config.secondMs }
  if stamp.toNat < Config.stampMax then started.newStamp (stamp + 1) else started

/-- SECOND_INTERVAL_EXPIRY (R12). -/
def execSecondIntervalExpiry (s : State) : Host.Outcome State Fault Refusal :=
  .next (match s.ssu.second, s.ssu.stamp with
    | some _, some stamp => s.advance stamp
    | _, _ => s)

/-- BEACON_LOSS_EXPIRY (R14). -/
def execBeaconLossExpiry (s : State) : Host.Outcome State Fault Refusal :=
  .next (if s.ssu.beaconLoss.isSome then
      (s.setSsu { s.ssu with state := .stale, beaconLoss := none }).raise .stamp .stampStale
    else s)

/-- SETTLE_EXPIRY (R63, R104). -/
def execSettleExpiry (s : State) : Host.Outcome State Fault Refusal :=
  .next (match s.ce.settle with
    | some timer => (s.settled timer).closingCheck
    | none => s)

/-- JOIN_AT_FIRST_IDLE_GAP (R79). -/
def execJoinAtFirstIdleGap (s : State) : Host.Outcome State Fault Refusal :=
  .next (if s.mode = .joining ∧ s.ju.join = .gapWait then
      (s.setJu { s.ju with join := .announcing, window := some s.joinWindowMs }).queueProtocol .join
    else s)

/-- JOIN_WINDOW_EXPIRY (R91). -/
def execJoinWindowExpiry (s : State) : Host.Outcome State Fault Refusal :=
  .next (if s.mode = .joining ∧ s.ju.window.isSome = true then s.completeJoin.raise .post .coldJoin else s)

/-- DUMP_STAGGER_EXPIRY (R83). -/
def execDumpStaggerExpiry (s : State) : Host.Outcome State Fault Refusal :=
  .next (if s.ju.dump = .stagger then s.beginDump else s)

/-- TAKE_TIMER_EXPIRY (R126). -/
def execTakeTimerExpiry (b : Bay) (s : State) : Host.Outcome State Fault Refusal :=
  .next (if (s.bay b).state = .opened ∧ (s.bay b).take.isSome = true then (s.beginRelatch b .notTaken).closingCheck else s)

/-- PATROL_TIMER_EXPIRY (R122). -/
def execPatrolTimerExpiry (s : State) : Host.Outcome State Fault Refusal :=
  .next (if s.patrol.isSome then s.fittedBays.foldl (fun x b => x.patrolBay b) s.startPatrol else s)

end Sys2Proof.Machine
end

