-- ==== Sys2Proof/Machine/Dispatch.lean ====
section
/-! DEFINITION. Dispatch: the meaning of each command. -/

namespace Sys2Proof.Machine

/-- The effect of a command on everything but the queue. -/
def exec (i : Instr) (s : State) : Host.Outcome State Fault Refusal :=
  match i with
  | .powerOn strap => Sys2Proof.Machine.execPowerOn strap s
  | .resetPin strap => Sys2Proof.Machine.execResetPin strap s
  | .endOfStartUp memory => Sys2Proof.Machine.execEndOfStartUp memory s
  | .sendStart => Sys2Proof.Machine.execSendStart s
  | .arbitrationLost => Sys2Proof.Machine.execArbitrationLost s
  | .frameVetoed frame => Sys2Proof.Machine.execFrameVetoed frame s
  | .frameCutOff => Sys2Proof.Machine.execFrameCutOff s
  | .claimEcho => Sys2Proof.Machine.execClaimEcho s
  | .objectEcho => Sys2Proof.Machine.execObjectEcho s
  | .lapseEcho => Sys2Proof.Machine.execLapseEcho s
  | .joinEcho => Sys2Proof.Machine.execJoinEcho s
  | .dumpEcho => Sys2Proof.Machine.execDumpEcho s
  | .dumpEndEcho => Sys2Proof.Machine.execDumpEndEcho s
  | .logReadyEcho => Sys2Proof.Machine.execLogReadyEcho s
  | .logDataEcho => Sys2Proof.Machine.execLogDataEcho s
  | .statusReplyEcho => Sys2Proof.Machine.execStatusReplyEcho s
  | .noticeEcho => Sys2Proof.Machine.execNoticeEcho s
  | .claim frame => Sys2Proof.Machine.execClaim frame s
  | .object frame => Sys2Proof.Machine.execObject frame s
  | .lapse frame => Sys2Proof.Machine.execLapse frame s
  | .revoke frame => Sys2Proof.Machine.execRevoke frame s
  | .beacon frame => Sys2Proof.Machine.execBeacon frame s
  | .join frame => Sys2Proof.Machine.execJoin frame s
  | .dump frame => Sys2Proof.Machine.execDump frame s
  | .dumpEnd frame => Sys2Proof.Machine.execDumpEnd frame s
  | .logFetch frame => Sys2Proof.Machine.execLogFetch frame s
  | .logClear frame => Sys2Proof.Machine.execLogClear frame s
  | .statusQuery frame => Sys2Proof.Machine.execStatusQuery frame s
  | .serviceFrameDiscarded kind frame => Sys2Proof.Machine.execServiceFrameDiscarded kind frame s
  | .hold frame => Sys2Proof.Machine.execHold frame s
  | .resume frame => Sys2Proof.Machine.execResume frame s
  | .maintainEnter frame => Sys2Proof.Machine.execMaintainEnter frame s
  | .maintainExit frame => Sys2Proof.Machine.execMaintainExit frame s
  | .hush frame => Sys2Proof.Machine.execHush frame s
  | .unhush frame => Sys2Proof.Machine.execUnhush frame s
  | .faultClear frame => Sys2Proof.Machine.execFaultClear frame s
  | .serviceOpen frame => Sys2Proof.Machine.execServiceOpen frame s
  | .serviceClose frame => Sys2Proof.Machine.execServiceClose frame s
  | .relatchOpen frame => Sys2Proof.Machine.execRelatchOpen frame s
  | .patrolNow frame => Sys2Proof.Machine.execPatrolNow frame s
  | .restart frame => Sys2Proof.Machine.execRestart frame s
  | .actionDelayExpiry => Sys2Proof.Machine.execActionDelayExpiry s
  | .secondIntervalExpiry => Sys2Proof.Machine.execSecondIntervalExpiry s
  | .beaconLossExpiry => Sys2Proof.Machine.execBeaconLossExpiry s
  | .settleExpiry => Sys2Proof.Machine.execSettleExpiry s
  | .joinAtFirstIdleGap => Sys2Proof.Machine.execJoinAtFirstIdleGap s
  | .joinWindowExpiry => Sys2Proof.Machine.execJoinWindowExpiry s
  | .dumpStaggerExpiry => Sys2Proof.Machine.execDumpStaggerExpiry s
  | .startMarker => Sys2Proof.Machine.execStartMarker s
  | .wrongLengthByte length => Sys2Proof.Machine.execWrongLengthByte length s
  | .intakeTimerExpiry => Sys2Proof.Machine.execIntakeTimerExpiry s
  | .presentFullyArrived bytes => Sys2Proof.Machine.execPresentFullyArrived bytes s
  | .tokenCheckCompletion => Sys2Proof.Machine.execTokenCheckCompletion s
  | .verdictSent => Sys2Proof.Machine.execVerdictSent s
  | .bayLightSent => Sys2Proof.Machine.execBayLightSent s
  | .presenceRising bay => Sys2Proof.Machine.execPresenceRising bay s
  | .presenceFalling bay => Sys2Proof.Machine.execPresenceFalling bay s
  | .seatRising bay => Sys2Proof.Machine.execSeatRising bay s
  | .seatFalling bay => Sys2Proof.Machine.execSeatFalling bay s
  | .homeRising bay => Sys2Proof.Machine.execHomeRising bay s
  | .homeFalling bay => Sys2Proof.Machine.execHomeFalling bay s
  | .clearRising bay => Sys2Proof.Machine.execClearRising bay s
  | .clearFalling bay => Sys2Proof.Machine.execClearFalling bay s
  | .driverFaultRising bay => Sys2Proof.Machine.execDriverFaultRising bay s
  | .driverFaultFalling bay => Sys2Proof.Machine.execDriverFaultFalling bay s
  | .coldInputChange asserted => Sys2Proof.Machine.execColdInputChange asserted s
  | .takeTimerExpiry bay => Sys2Proof.Machine.execTakeTimerExpiry bay s
  | .patrolTimerExpiry => Sys2Proof.Machine.execPatrolTimerExpiry s
  | .tagReadAttemptCompletion bay answer => Sys2Proof.Machine.execTagReadAttemptCompletion bay answer s
  | .faultResetPulseEnd => Sys2Proof.Machine.execFaultResetPulseEnd s
  | .boltStepEnd => Sys2Proof.Machine.execBoltStepEnd s
  | .dwellEnd => Sys2Proof.Machine.execDwellEnd s
  | .senseReading => Sys2Proof.Machine.execSenseReading s
  | .endOfArbitrationField => Sys2Proof.Machine.execEndOfArbitrationField s
  | .ownAddressFrameReceived => Sys2Proof.Machine.execOwnAddressFrameReceived s
  | .unknownKindFrame kind frame => Sys2Proof.Machine.execUnknownKindFrame kind frame s

end Sys2Proof.Machine
end

