-- ==== Sys2Proof/Safety.lean ====
section
/-! DEFINITION. Safety: the laws of the spec that hold between events, and when a frame is taken, as statements name them. -/

namespace Sys2Proof.Safety

open Sys2Proof.Machine

/-- R19: the table has 256 places, and no token is held at two of them. -/
def TableLaw (s : State) : Prop :=
  s.table.length = 256 ∧
    ∀ (i j : Nat) (e f : Entry), s.table[i]? = some (some e) → s.table[j]? = some (some f) → e.token = f.token → i = j

/-- R47: the transmit queues hold at most 12 and 4 frames. -/
def QueueLaw (s : State) : Prop := s.rlc.protocol.length ≤ 12 ∧ s.rlc.service.length ≤ 4

/-- R44: no waiting frame has been vetoed more than 7 times. -/
def VetoLaw (s : State) : Prop := (∀ q ∈ s.rlc.protocol, q.vetoes ≤ 7) ∧ ∀ q ∈ s.rlc.service, q.vetoes ≤ 7

/-- R57: at most 5 OBJECTs are in the objection set. R170: at most 4 actions wait. -/
def SetLaw (s : State) : Prop := s.ce.objections.length ≤ 5 ∧ s.delays.length ≤ 4

/-- The pairs of source and code the Attention Queue records, in the queue and the waiting set. -/
def attentionPairs (s : State) : List (Source × Code) :=
  (s.aq.queue.map QueuedAttention.att ++ s.aq.waiting).map (fun a => (a.source, a.code))

/-- R162: at most 16 entries, and no pair is recorded twice. R160: repeat counts are at most 255. -/
def AttentionLaw (s : State) : Prop :=
  s.aq.queue.length ≤ 16 ∧ (attentionPairs s).Nodup ∧
    (∀ e ∈ s.aq.queue, e.att.count ≤ 255) ∧ ∀ a ∈ s.aq.waiting, a.count ≤ 255

/-- R144, R146: each bay has at most one run requested or running, and the drive is held by the bay that runs. -/
def DriveLaw (s : State) : Prop :=
  (s.drive.waiting.map Request.bay).Nodup ∧ s.drive.holder = s.run.map Run.bay ∧
    ∀ b : Bay, s.runsAt b = true → s.requestWaits b = false

/-- R11: the stamp and the two timers as the table of the stamp states has them. -/
def StampLaw (s : State) : Prop :=
  match s.ssu.state with
  | .unset => s.ssu.stamp = none ∧ s.ssu.beaconLoss = none ∧ s.ssu.second = none
  | .set => s.ssu.stamp.isSome = true ∧ s.ssu.beaconLoss.isSome = true ∧ s.ssu.second.isSome = true
  | .stale => s.ssu.stamp.isSome = true ∧ s.ssu.beaconLoss = none ∧ s.ssu.second.isSome = true

/-- R12: the stamp of `t` is no earlier than that of `s`. -/
def StampKept (s t : State) : Prop := ∀ a, s.ssu.stamp = some a → ∃ b, t.ssu.stamp = some b ∧ a.toNat ≤ b.toNat

/-- R147: the store has 1024 slots, 8 flags and 8 cursors, and its writer stands on a slot. -/
def StoreLaw (s : State) : Prop :=
  s.store.slots.length = 1024 ∧ s.store.flags.length = 8 ∧ s.store.cursors.length = 8 ∧ s.store.writer < 1024

/-- R178: in CLOSING a transaction is under way or a fitted bay is in one of the six busy states. -/
def ClosingLaw (s : State) : Prop :=
  s.mode = .closing → s.tap.phase ≠ .idle ∨ ∃ b : Bay, b.val < s.cfg.baysFitted ∧ (s.bay b).state.busy = true

/-- R177: the mode changes between events that are no reset. -/
def ModeStep (a b : PostMode) : Prop :=
  a = b ∨ (a = .starting ∧ (b = .joining ∨ b = .configFault)) ∨ (a = .joining ∧ b = .service)
    ∨ (a = .service ∧ (b = .hold ∨ b = .maintenance ∨ b = .closing))
    ∨ (a = .hold ∧ (b = .service ∨ b = .maintenance ∨ b = .closing))
    ∨ (a = .closing ∧ (b = .maintenance ∨ b = .service)) ∨ (a = .maintenance ∧ (b = .service ∨ b = .joining))

/-- R179: a restart that is due waits in MAINTENANCE for the end of the attempt in flight. -/
def RestartLaw (s : State) : Prop := s.restartDue = true → s.mode = .maintenance ∧ s.rlc.attempt.isSome = true

/-- POWER_ON or RESET_PIN. -/
def isReset : Instr → Prop
  | .powerOn _ => True
  | .resetPin _ => True
  | _ => False

/-- A frame from another station reaches the post (R37, R39, R45): not in STARTING, with no attempt of its own, and not
from the post's own address. -/
def Heard (f : RowFrame) (s : State) : Prop := s.mode ≠ .starting ∧ s.rlc.attempt = none ∧ f.source ≠ s.strap

/-- A frame of a kind any station may send passes the tests of R51 but its field ranges: its rank is its kind's, its
destination ALL, and the mode one in which the post works. -/
def TakenFromAny (rank : Nat) (f : RowFrame) (s : State) : Prop :=
  Heard f s ∧ s.mode ≠ .configFault ∧ f.rank.toNat = rank ∧ f.dest = .all

/-- The destination names an address (R51). -/
def Reaches (d : Destination) (a : Addr) : Prop :=
  match d with
  | .one x => x = a
  | .span b l => b.toNat ≤ a.toNat ∧ a.toNat ≤ l.toNat
  | .all => True

/-- A frame of a gateway kind passes the tests of R51 but its field ranges and destination form. -/
def TakenFromGateway (rank : Nat) (f : RowFrame) (s : State) : Prop :=
  Heard f s ∧ s.mode ≠ .configFault ∧ f.rank.toNat = rank ∧ f.source = s.cfg.gateway ∧ Reaches f.dest s.strap

/-- The state with the veto slot of the frame that ended left undriven. -/
def heard (s : State) : State := { s with rlc := { s.rlc with vetoDriven := false } }

/-- An attempt is sending the frame `f` of a queue with the contents `settled`. -/
def Sending (f : Frame) (vetoes : Nat) (a : Attempt) (s : State) : Prop :=
  s.rlc.attempt = some a ∧ a.phase = .sending ∧ (s.side a.side)[a.place]? = some ⟨f, vetoes⟩

/-- The state after an echo, before its producer's effect: the veto slot undriven, the frame out of its queue, no attempt. -/
def sent (a : Attempt) (s : State) : State :=
  { s with
    rlc :=
      { protocol := if a.side = .protocol then s.rlc.protocol.eraseIdx a.place else s.rlc.protocol
        service := if a.side = .service then s.rlc.service.eraseIdx a.place else s.rlc.service
        attempt := none
        vetoDriven := false } }

/-- R45: `rest` is the queue without the first of its frames that `p` names, the others in their order. -/
def Without (p : Frame → Prop) (queue rest : List Queued) : Prop :=
  (∀ (before after : List Queued) (x : Queued), queue = before ++ x :: after → p x.frame → (∀ y ∈ before, ¬p y.frame) →
    rest = before ++ after) ∧
  ((∀ x ∈ queue, ¬p x.frame) → rest = queue)

/-- The frame is a CLAIM for the token. -/
def ClaimFor (t : TokenId) (f : Frame) : Prop := ∃ (b : Bay) (x : Stamp), f = .claim t b x

/-- R103, R123: a chosen bay's record as its reservation is given back: a bay that has left RESERVED is left as it is. -/
def givenBack (x : BayRecord) : BayRecord := if x.state = .reserved then { x with state := .docked } else x

/-- An ACTION frame for this action passes the tests of R51 and its code is in the mask (R168); `bay` is its argument. -/
def TakenAction (a : RowAction) (bay : Option Bay) (f : RowFrame) (s : State) : Prop :=
  TakenFromGateway 2 f s ∧ readAction f.payload = some bay ∧ s.cfg.actionMask.getLsbD a.bit = true

/-- The command that carries an action's frame. -/
def actionCommand (a : RowAction) (f : RowFrame) : Instr :=
  match a with
  | .hold => .hold f
  | .resume => .resume f
  | .maintainEnter => .maintainEnter f
  | .maintainExit => .maintainExit f
  | .hush => .hush f
  | .unhush => .unhush f
  | .faultClear => .faultClear f
  | .serviceOpen => .serviceOpen f
  | .serviceClose => .serviceClose f
  | .relatchOpen => .relatchOpen f
  | .patrolNow => .patrolNow f
  | .restart => .restart f

/-- The six actuating actions (R170, R171). -/
def actuating : List RowAction := [.faultClear, .serviceOpen, .serviceClose, .relatchOpen, .patrolNow, .restart]

/-- Bay `b` has asked for this run: its request waits for the drive, or the run has been granted (R114, R145). -/
def Asks (b : Bay) (run : RunFor) (s : State) : Prop := s.driveRequest b = .waiting run ∨ s.driveRequest b = .running run

/-- The message waits in the tap transmit list or is under transmission (R93). -/
def Told (m : TapMessage) (s : State) : Prop := m ∈ s.link.list ∨ s.link.sending = some m

/-- R100: bay `b` is eligible for the token. -/
def CanServe (s : State) (t : Token) (b : Bay) : Prop :=
  b.val < s.cfg.baysFitted ∧ (s.bay b).state = .docked ∧ s.pendingOf b = [] ∧
    (∃ c : BikeClass, (s.bay b).bikeClass = some c ∧ (t.cls = 15 ∨ t.cls.toNat = c.toNat)) ∧
    (t.targetBay = 255 ∨ t.targetBay.toNat = b.val) ∧ s.runsAt b = false

/-- R2 to R5, R97: what the seven intake tests answer for a token, the first that fails giving the verdict; `none` when all
pass. -/
def intakeAnswer (s : State) (t : Token) : Option Verdict :=
  if t.id = 0 ∨ (32 ≤ t.targetPost.toNat ∧ t.targetPost.toNat ≤ 254) ∨ (4 ≤ t.targetBay.toNat ∧ t.targetBay.toNat ≤ 254)
      ∨ (4 ≤ t.cls.toNat ∧ t.cls.toNat ≤ 14) ∨ t.notAfter.toNat < t.notBefore.toNat then some .malformed
  else if ¬(t.site = s.cfg.site ∨ t.site.toNat = 65535) then some .wrongSite
  else if ¬(t.targetPost.toNat = s.strap.toNat ∨ t.targetPost.toNat = 255) then some .wrongPost
  else if s.ssu.state = .unset then some .noTime
  else
    match s.ssu.stamp with
    | none => some .noTime
    | some stamp =>
      if stamp.toNat + s.cfg.skewS < t.notBefore.toNat then some .tooEarly
      else if t.notAfter.toNat + s.cfg.skewS < stamp.toNat then some .expired
      else if s.mode ≠ .service then some .postClosed
      else if s.blocked = true then some .logFull
      else none

/-- R22: the table is full, and place `i` holds its evictable entry of earliest expiry, at the lowest index among equals. -/
def Evicts (table : List (Option Entry)) (i : Nat) : Prop :=
  (∀ slot ∈ table, slot.isSome = true) ∧
    ∃ e, table[i]? = some (some e) ∧ e.status.evictable = true ∧
      ∀ (j : Nat) (x : Entry), table[j]? = some (some x) → x.status.evictable = true →
        e.expiry.toNat < x.expiry.toNat ∨ e.expiry = x.expiry ∧ i ≤ j

/-- R29: what a dump entry for an entry's token makes of it. -/
def mergedEntry (x : Entry) (d : DumpEntry) : Entry :=
  if d.status = .revoked ∧ (x.status = .peerClaimed ∨ x.status = .void ∨ x.status = .revoked) then
    { x with status := .revoked, claimant := none, bay := none, expiry := laterStamp x.expiry d.expiry }
  else if d.status = .void ∧ x.status = .peerClaimed then { x with status := .void }
  else x

/-- R21: the entry a dump entry of an unknown token is inserted as. -/
def enteredEntry (d : DumpEntry) : Entry :=
  if d.status = .revoked then ⟨d.token, .revoked, none, none, d.expiry, false⟩
  else ⟨d.token, if d.status = .void then .void else .peerClaimed, d.claimant, d.bay, d.expiry, false⟩

/-- R19, R22, R29: `u` is the table `t` with one dump entry merged. -/
def Merges (t : List (Option Entry)) (d : DumpEntry) (u : List (Option Entry)) : Prop :=
  (lookupEntry d.token t ≠ none →
    u = t.map (fun slot => slot.map (fun x => if x.token = d.token then mergedEntry x d else x))) ∧
  (lookupEntry d.token t = none →
    ∀ i, t.findIdx? Option.isNone = some i ∨ Evicts t i → u = t.set i (some (enteredEntry d)))

/-- R88: `u` is the table `t` with the entries of a dump merged in their order. -/
def MergesAll (t : List (Option Entry)) (entries : List DumpEntry) (u : List (Option Entry)) : Prop :=
  match entries with
  | [] => u = t
  | d :: rest => ∃ m, Merges t d m ∧ MergesAll m rest u

/-- R31: the occupied indexes of a table from one on, lowest first. -/
def occupied (table : List (Option Entry)) (start : Nat) : List Nat :=
  (List.range table.length).filter (fun i => start ≤ i && (table[i]?.join).isSome)

/-- R84: an entry as a dump of the post at an address carries it. -/
def transferred (strap : Addr) (e : Entry) : DumpEntry :=
  if e.status = .revoked then ⟨e.token, .revoked, none, none, e.expiry⟩
  else if e.status = .void then ⟨e.token, .void, e.claimant, e.bay, e.expiry⟩
  else ⟨e.token, .claimed, if e.status = .peerClaimed then e.claimant else some strap, e.bay, e.expiry⟩

/-- The state in which the run in progress goes on as `r`. -/
def goingOn (s : State) (r : Run) : State := State.closingCheck { s with run := some r }

/-- R122, R143, R146: the command ends the run `r` in SUCCESS. Shown at a PATROL run of a DOCKED bay, which stays as it is,
while the drive goes to the next bay waiting or is FREE. -/
def Succeeds (c : Instr) (r : Run) (s : State) : Prop :=
  r.run = .role .patrol → (s.bay r.bay).state = .docked → (s.bay r.bay).followOn = none → r.measured = none → DriveLaw s →
    ∃ t, exec c s = .next t ∧ t.bays = s.bays ∧ t.store = s.store ∧ t.runsAt r.bay = false ∧
      t.drive = ⟨s.drive.waiting.tail, s.drive.waiting.head?.map Request.bay⟩

/-- R155: the records a fetch of a segment sends. They are those of the slots from `start` on: `count` of them, or as many as
stand before the segment's end, before the writer in the segment being filled, and before the first empty slot. -/
def Fetched (s : State) (segment start count : Nat) (records : List RentalRecord) : Prop :=
  let last := segment * s.segmentSize + start + records.length
  records.length ≤ count ∧ (records ≠ [] → start + records.length ≤ s.segmentSize) ∧
    (records ≠ [] → segment = s.writerSegment → s.flagged segment = false → last ≤ s.store.writer) ∧
    (∀ (k : Nat) (r : RentalRecord), records[k]? = some r →
      s.store.slots[segment * s.segmentSize + start + k]? = some (some r)) ∧
    (records.length < count → start + records.length < s.segmentSize →
      (segment = s.writerSegment → s.flagged segment = false → last < s.store.writer) → s.store.slots[last]?.join = none)

/-- R153: the store of `t` is that of `s` with the records that waited written from the writer position on, oldest first. -/
def Drained (s t : State) : Prop :=
  t.store.waiting = [] ∧ t.store.writer = s.store.writer + s.store.waiting.length ∧
    t.store.nextSeq = s.store.nextSeq + BitVec.ofNat 16 s.store.waiting.length ∧
    (∀ (k : Nat) (body : RecordBody), s.store.waiting[k]? = some body → t.store.slots[s.store.writer + k]? =
      some (some ⟨s.store.nextSeq + BitVec.ofNat 16 k, s.ssu.stamp, s.ssu.state == .stale, true, body⟩)) ∧
    ∀ i, i < s.store.writer ∨ s.store.writer + s.store.waiting.length ≤ i → t.store.slots[i]? = s.store.slots[i]?

/-- R162: the record at place `i` of the waiting set is the highest: by class, then source, then the one made first. -/
def Highest (waiting : List Attention) (i : Nat) (a : Attention) : Prop :=
  waiting[i]? = some a ∧ ∀ (j : Nat) (b : Attention), waiting[j]? = some b → j ≠ i →
    b.code.weight < a.code.weight ∨ b.code.weight = a.code.weight ∧
      (a.source.number < b.source.number ∨ a.source.number = b.source.number ∧ i < j)

/-- The record of a PRESENT that is no longer collected (R94). -/
def uncollected (tap : TapRecord) : TapRecord := { tap with intake := none, collecting := none, kept := none }

/-! ### Records and restarts -/

/-- R149, R152: handing the record `body` to the store of `s` left the store `st`: with the store BLOCKED it waits, a second
RESET-MARK apart, and otherwise it is written at the writer position, here short of its segment's end. -/
def Recorded (body : RecordBody) (s : State) (st : RecordStore) : Prop :=
  (s.blocked = true → st = { s.store with
    waiting := if body = .resetMark ∧ RecordBody.resetMark ∈ s.store.waiting then s.store.waiting
      else s.store.waiting ++ [body] }) ∧
  (s.blocked = false → s.store.writer % s.segmentSize ≠ s.segmentSize - 1 → st = { s.store with
    slots := s.store.slots.set s.store.writer (some ⟨s.store.nextSeq, s.ssu.stamp, s.ssu.state == .stale, false, body⟩)
    nextSeq := s.store.nextSeq + 1, writer := (s.store.writer + 1) % 1024 })

/-- R179: a restart has been carried out on the post `s`: the claim knowledge and the work in hand are gone, the stamp, the
configuration and the strap address are kept, and the post is JOINING with its fitted bays in CALIBRATING. -/
def Restarted (s t : State) : Prop :=
  t.mode = .joining ∧ t.restartDue = false ∧ t.rlc.protocol = [] ∧ t.rlc.attempt = none ∧ t.table = List.replicate 256 none ∧
    t.ce = ⟨none, []⟩ ∧ t.ju = { JoinUnit.reset with join := .gapWait } ∧ t.tcu = ⟨false, none⟩ ∧ t.tap = TapRecord.reset ∧
    t.delays = [] ∧ t.ssu = s.ssu ∧ t.image = s.image ∧ t.strap = s.strap ∧ t.inputs = s.inputs ∧
    ∀ b : Bay, b.val < s.cfg.baysFitted → (t.bay b).state = .calibrating ∧ (t.bay b).bikeId = none ∧
      (t.bay b).claim = none ∧ (t.bay b).fault = none ∧ (t.bay b).clearPoint = (s.bay b).clearPoint

/-- The command that is the echo of a frame of this kind; the post sends no others. -/
def echoOf : FrameKind → Option Instr
  | .object => some .objectEcho
  | .claim => some .claimEcho
  | .lapse => some .lapseEcho
  | .join => some .joinEcho
  | .dump => some .dumpEcho
  | .dumpEnd => some .dumpEndEcho
  | .logReady => some .logReadyEcho
  | .logData => some .logDataEcho
  | .statusReply => some .statusReplyEcho
  | .notice => some .noticeEcho
  | .revoke | .beacon | .action | .logFetch | .statusQuery | .logClear => none

/-- The command ends the attempt in flight: by arbitration loss, by the veto of its frame, or by its echo (R38, R42, R44). -/
def EndsAttempt (c : Instr) (s : State) : Prop :=
  (c = .arbitrationLost ∧ ∃ a, s.rlc.attempt = some a ∧ a.phase = .arbitrating) ∨
    ∃ (f : Frame) (v : Nat) (a : Attempt), Sending f v a s ∧
      ((∃ readback, c = .frameVetoed (.own readback)) ∨ echoOf f.kind = some c)

/-! ### Frames of other stations -/

/-- A frame command as R51 judges it: its frame, its kind's rank, whether only the gateway may send it, whether the
destination has a form its kind allows, and whether its payload reads. -/
structure FrameRow where
  frame : RowFrame
  rank : Nat
  gateway : Bool
  form : Bool
  reads : Bool

/-- The destination is ALL. -/
def isAll (d : Destination) : Bool := d == .all

/-- The destination is of form ONE. -/
def isOne (d : Destination) : Bool :=
  match d with
  | .one _ => true
  | .span _ _ => false
  | .all => false

/-- R52, R56: the rank, the source and the destination form of every kind a block answers. -/
def frameRow : Instr → Option FrameRow
  | .object f => some ⟨f, 0, false, isAll f.dest, (readObject f.payload).isSome⟩
  | .claim f => some ⟨f, 1, false, isAll f.dest, (readClaim f.payload).isSome⟩
  | .lapse f => some ⟨f, 1, false, isAll f.dest, (readLapse f.payload).isSome⟩
  | .revoke f => some ⟨f, 2, true, !isOne f.dest, (readRevoke f.payload).isSome⟩
  | .beacon f => some ⟨f, 2, true, isAll f.dest, (readBeacon f.payload).isSome⟩
  | .join f => some ⟨f, 2, false, isAll f.dest, (readJoin f.payload).isSome⟩
  | .dump f => some ⟨f, 3, false, isAll f.dest, (readDump f.payload).isSome⟩
  | .dumpEnd f => some ⟨f, 3, false, isAll f.dest, (readDumpEnd f.payload).isSome⟩
  | .logFetch f => some ⟨f, 4, true, isOne f.dest, (readLogFetch f.payload).isSome⟩
  | .logClear f => some ⟨f, 4, true, isOne f.dest, (readLogClear f.payload).isSome⟩
  | .statusQuery f => some ⟨f, 4, true, isOne f.dest, (readStatusQuery f.payload).isSome⟩
  | .hold f | .resume f | .maintainEnter f | .maintainExit f | .hush f | .unhush f | .faultClear f | .serviceOpen f
  | .serviceClose f | .relatchOpen f | .patrolNow f | .restart f => some ⟨f, 2, true, true, (readAction f.payload).isSome⟩
  | _ => none

/-! ### The ends of runs -/

/-- How a run ends (R143): SUCCESS, FAIL at a limit, FAIL by the driver, STOPPED. -/
inductive Ending where
  | success
  | limit
  | driver
  | stopped
  deriving DecidableEq, Repr

/-- The ending a result reports. -/
def endingOf : RunResult → Ending
  | .success => .success
  | .failLimit _ => .limit
  | .failDriver _ => .driver
  | .stopped _ => .stopped

/-- The command is a boundary of the step in progress (R142): the end of a bolt step, of a DWELL, or a reading. -/
def AtStep (c : Instr) (r : Run) (st : Step) : Prop :=
  0 < r.index ∧ r.steps[r.index - 1]? = some st ∧
    (c = .boltStepEnd ∧ (∃ n, st.action = .out n ∨ st.action = .inward n) ∨
      c = .dwellEnd ∧ (∃ n, st.action = .dwell n) ∨ c = .senseReading ∧ st.action = .sense)

/-- R135: the bolt steps a PLAIN or STOP-WHEN step makes. -/
def required (r : Run) (st : Step) : Nat :=
  match st.action with
  | .out n | .inward n => if st.fromClearPoint = true then r.clearPoint.getD n else n
  | .dwell _ | .sense => 0

/-- R136: the step in progress completes at the boundary, and the run goes on to what follows it. -/
def StepCompletes (i : BayInputs) (r : Run) (st : Step) : Prop :=
  match st.mode with
  | .plain => required r st ≤ r.made + 1
  | .stopWhen sensor level => required r st ≤ r.made + 1 ∧ i.level sensor ≠ level
  | .untilSees sensor level _ => i.level sensor = level
  | .edge sensor _ => r.edge = .seekHigh ∧ i.level sensor = true

/-- R136: the STOP-WHEN condition holds once the step's whole action has been performed. -/
def StepSucceeds (i : BayInputs) (r : Run) (st : Step) : Prop :=
  ∃ sensor level, st.mode = .stopWhen sensor level ∧ required r st ≤ r.made + 1 ∧ i.level sensor = level

/-- R136: the step in progress neither completes nor reaches its limit at the boundary. -/
def StepGoesOn (i : BayInputs) (r : Run) (st : Step) : Prop :=
  match st.mode with
  | .plain | .stopWhen _ _ => r.made + 1 < required r st
  | .untilSees sensor level limit => i.level sensor ≠ level ∧ r.made + 1 < limit
  | .edge sensor limit => ¬(r.edge = .seekHigh ∧ i.level sensor = true) ∧ r.made + 1 < limit

/-- R136: the UNTIL or EDGE step in progress makes its limit of bolt steps or waits and finds nothing. -/
def StepReachesLimit (i : BayInputs) (r : Run) (st : Step) : Prop :=
  (∀ n, st.action ≠ .dwell n) ∧
    match st.mode with
    | .plain | .stopWhen _ _ => False
    | .untilSees sensor level limit => i.level sensor ≠ level ∧ limit ≤ r.made + 1
    | .edge sensor limit => ¬(r.edge = .seekHigh ∧ i.level sensor = true) ∧ limit ≤ r.made + 1

/-- R136, R137: steps that need no bolt step: begun one after another, they end the run in SUCCESS. -/
def Finishes (i : BayInputs) : List Step → Prop
  | [] => True
  | st :: rest =>
    (∃ sensor level limit, st.mode = .untilSees sensor level limit ∧ i.level sensor = level ∧ Finishes i rest) ∨
      ∃ sensor level, st.mode = .stopWhen sensor level ∧ st.action = .sense ∧ (i.level sensor = level ∨ Finishes i rest)

/-- R137: the measured count of a run whose step in progress has completed. -/
def measuredAfter (r : Run) (st : Step) : Option Nat :=
  match st.mode with
  | .edge _ _ => some (match st.action with
    | .out _ => r.outs + 1
    | _ => r.outs)
  | _ => r.measured

/-- R141, R142: the command ends the run `r` of the post `s` so, with this measured count. -/
inductive Ends (s : State) (r : Run) : Instr → Ending → Option Nat → Prop where
  | pulseDriver : r.index = 0 → (s.input r.bay).driverFault = true → Ends s r .faultResetPulseEnd .driver r.measured
  | pulseStopped : r.index = 0 → (s.input r.bay).driverFault = false → r.stop = true →
      Ends s r .faultResetPulseEnd .stopped r.measured
  | pulseFinished : r.index = 0 → (s.input r.bay).driverFault = false → r.stop = false →
      Finishes (s.input r.bay) r.steps → Ends s r .faultResetPulseEnd .success r.measured
  | driver (c : Instr) (st : Step) : AtStep c r st → (s.input r.bay).driverFault = true → Ends s r c .driver r.measured
  | limit (c : Instr) (st : Step) : AtStep c r st → (s.input r.bay).driverFault = false →
      StepReachesLimit (s.input r.bay) r st → Ends s r c .limit r.measured
  | holds (c : Instr) (st : Step) : AtStep c r st → (s.input r.bay).driverFault = false →
      StepSucceeds (s.input r.bay) r st → Ends s r c .success r.measured
  | finished (c : Instr) (st : Step) : AtStep c r st → (s.input r.bay).driverFault = false →
      StepCompletes (s.input r.bay) r st → r.steps.length ≤ r.index ∨ r.stop = false →
      Finishes (s.input r.bay) (r.steps.drop r.index) → Ends s r c .success (measuredAfter r st)
  | stoppedInStep (c : Instr) (st : Step) : AtStep c r st → (s.input r.bay).driverFault = false → r.stop = true →
      StepGoesOn (s.input r.bay) r st → Ends s r c .stopped r.measured
  | stoppedBetween (c : Instr) (st : Step) : AtStep c r st → (s.input r.bay).driverFault = false → r.stop = true →
      StepCompletes (s.input r.bay) r st → r.index < r.steps.length → Ends s r c .stopped (measuredAfter r st)

/-- R114: the bay's record at the end of its run, its clear point the count measured where there is one. -/
def atEnd (s : State) (r : Run) (m : Option Nat) : BayRecord :=
  { s.bay r.bay with clearPoint := if m = none then (s.bay r.bay).clearPoint else m }

/-- R143, R146: the drive goes from a run that has ended to the first of these requests, or is FREE. -/
def HandsOn (waiting : List Request) (t : State) : Prop :=
  t.drive = ⟨waiting.tail, waiting.head?.map Request.bay⟩ ∧
    t.run.map (fun x => (x.bay, x.run)) = waiting.head?.map (fun q => (q.bay, q.run))

/-- What touches no bay but `b`, and no claim, record, transaction or frame. -/
def OnlyBay (b : Bay) (s t : State) : Prop :=
  (∀ d, d ≠ b → t.bay d = s.bay d) ∧ t.table = s.table ∧ t.ce = s.ce ∧ t.tap = s.tap ∧ t.store = s.store ∧
    t.rlc.protocol = s.rlc.protocol

/-- The command leaves bay `b` this record and the drive to these requests, and nothing else is touched. -/
def Leaves (c : Instr) (s : State) (b : Bay) (after : BayRecord) (waiting : List Request) : Prop :=
  ∃ t, exec c s = .next t ∧ t.bay b = after ∧ HandsOn waiting t ∧ OnlyBay b s t

/-- R132: bay `b`, its record otherwise `x`, has become FAULTED with this code, shown and recorded. -/
def Faulted (b : Bay) (code : FaultCode) (x : BayRecord) (s t : State) : Prop :=
  t.bay b = { x with
    state := .faulted, fault := some code, take := none, claim := none, cause := none, tagRead := none, failedDock := none } ∧
    Told (.bayLight b .fault) t ∧
    (s.mode.working = true → s.masked (.bay b) = false → (Source.bay b, code.code) ∈ attentionPairs t)

/-- R116: a bay's record as it begins calibration. -/
def calibratingFrom (x : BayRecord) : BayRecord :=
  { x with state := .calibrating, claim := none, cause := none, bikeId := none, bikeClass := none, take := none }

/-- R105, R104: bay `d`, at place `j` of the candidate list, is the first after the position reached that is eligible. -/
def NextCandidate (s : State) (t : Token) (j : Nat) (d : Bay) : Prop :=
  s.tap.position < j ∧ s.tap.candidates[j]? = some d ∧ CanServe s t d ∧
    ∀ (k : Nat) (b : Bay), s.tap.position < k → k < j → s.tap.candidates[k]? = some b → ¬CanServe s t b

/-- R142: a stop taken in a DWELL reads the driver-fault input, and where it is asserted DRIVER FAULT is recorded. -/
def StoppedOrFailed (b : Bay) (s t : State) : Prop :=
  (s.input b).driverFault = true → s.mode.working = true → s.masked (.bay b) = false →
    (Source.bay b, Code.driverFault) ∈ attentionPairs t

end Sys2Proof.Safety
end

