-- ==== Sys2Proof/Certificates/Slice0/Obligations.lean ====
section
/-! DEFINITION. Obligations: the statements about the post. -/

open Sys2Proof Sys2Proof.Machine Sys2Proof.Safety

/-! ### The queue, resets and start-up -/

/-- A step carries out the command at the front of the queue on the rest; with no command the post idles (log 4). -/
def Obligations.StepTakesTheFrontCommand : Prop :=
  (∀ (c : Instr) (rest : List Instr) (s : State), step { s with pending := c :: rest } = exec c { s with pending := rest }) ∧
    ∀ s : State, s.pending = [] → step s = .next s

/-- POWER_ON and RESET_PIN from any state leave every block at its power-on value and the strap pins read; the pins' levels
and the waiting commands stay (log 7, log 30).
Model's form: log 6. -/
def Obligations.ResetsLeavePowerOnValues : Prop :=
  ∀ (a : Addr) (s : State),
    exec (.powerOn a) s =
        .next { State.reset with strap := a, inputs := s.inputs, cold := s.cold, pending := s.pending } ∧
      exec (.resetPin a) s =
        .next { State.reset with strap := a, inputs := s.inputs, cold := s.cold, pending := s.pending }

/-- R175, R176: an invalid record takes a post in STARTING to CONFIG-FAULT and changes nothing else; a valid one gives a post
at its power-on values its image, JOINING, GAP-WAIT, the patrol timer, unfitted bays ABSENT, bay 0's HOME run granted, and
the other fitted bays' HOME requests in bay order.
Model's form: log 2; log 27. -/
def Obligations.StartUpEndsInJoiningOrConfigFault : Prop :=
  ∀ (m : Option (List Byte)) (s : State), s.mode = .starting →
    (imageOf s.strap m = none → exec (.endOfStartUp m) s = .next { s with mode := .configFault }) ∧
      ∀ (i : Image) (strap : Addr) (inputs : PerBay BayInputs) (cold : Bool) (pending : List Instr),
        s = { State.reset with strap := strap, inputs := inputs, cold := cold, pending := pending } →
        imageOf strap m = some i →
        ∃ t, exec (.endOfStartUp m) s = .next t ∧ t.image = some i ∧ t.mode = .joining ∧ t.ju.join = .gapWait ∧
          t.patrol = (if i.patrolMin = 0 then none else some (60000 * i.patrolMin)) ∧
          (∀ b : Bay, (t.bay b).state = if b.val < i.baysFitted then .calibrating else .absent) ∧
          t.drive.holder = some 0 ∧ t.run.map Run.bay = some 0 ∧ t.run.map Run.run = some (.role .home) ∧
          t.drive.waiting = (([1, 2, 3] : List Bay).filter (fun b => b.val < i.baysFitted)).map (fun b => ⟨b, .role .home⟩)

/-! ### The post's own attempts -/

/-- R43, R61: at a send start with the post idle on the line, a protocol head whose contents are fixed and need no check is
offered, with an empty protocol queue the service head is, and with both queues empty nothing starts. A CLAIM at the head is
offered when its entry is OWN-PENDING for this post. Otherwise it leaves the queue with no other effect, and the choice is
made again on what is left. -/
def Obligations.SendStartOffersTheHeadOrWithdrawsAClaim : Prop :=
  (∀ (s : State) (q : Queued) (rest : List Queued), s.mode ≠ .starting → s.rlc.attempt = none →
    (s.rlc.protocol = q :: rest → (q.frame.kind = .object ∨ q.frame.kind = .lapse ∨ q.frame.kind = .join) →
      exec .sendStart s = .next { s with rlc := { s.rlc with attempt := some ⟨.arbitrating, .protocol, 0, .fixed, false⟩ } }) ∧
    (s.rlc.protocol = [] → s.rlc.service = q :: rest → q.frame.kind ≠ .statusReply →
      exec .sendStart s = .next { s with rlc := { s.rlc with attempt := some ⟨.arbitrating, .service, 0, .fixed, false⟩ } }) ∧
    (s.rlc.protocol = [] → s.rlc.service = [] → exec .sendStart s = .next s)) ∧
  ∀ (s : State) (t : TokenId) (b : Bay) (x : Stamp) (v : Nat) (rest : List Queued), s.mode ≠ .starting →
    s.rlc.attempt = none → s.rlc.protocol = ⟨.claim t b x, v⟩ :: rest →
    ((∃ e, s.entry t = some e ∧ e.status = .ownPending ∧ e.claimant = some s.strap) →
      exec .sendStart s = .next { s with rlc := { s.rlc with attempt := some ⟨.arbitrating, .protocol, 0, .fixed, false⟩ } }) ∧
    (¬(∃ e, s.entry t = some e ∧ e.status = .ownPending ∧ e.claimant = some s.strap) →
      exec .sendStart s = exec .sendStart { s with rlc := { s.rlc with protocol := rest } })

/-- R31, R84: a DUMP at the head is offered with the next sequence and the first four entries at or above the cursor, each
converted (an OWN-PENDING one, which no dump meets, like the other own ones: log 20), and the cursor after them, which is END
where no entry is left. R84, R86: where no entry stands at or above the cursor a DUMP-END is queued in its place and offered.
A DUMP-END is filled with the counts and the stamp. -/
def Obligations.SendStartReadsTheTableForADump : Prop :=
  ∀ (s : State) (v : Nat) (rest : List Queued), s.mode ≠ .starting → s.rlc.attempt = none →
    (s.rlc.protocol = ⟨.dump, v⟩ :: rest →
      ∀ (start : Nat) (found : List Nat), s.ju.cursor = .index start → found = occupied s.table start →
      (found ≠ [] → ∃ next : Cursor,
        exec .sendStart s = .next { s with rlc := { s.rlc with attempt := some ⟨.arbitrating, .protocol, 0,
          .dump s.ju.nextSeq ((found.take 4).filterMap (fun i => s.table[i]?.join.map (transferred s.strap))) next,
          false⟩ } } ∧
        (found.length ≤ 4 → next = .atEnd) ∧ ∀ i, 4 < found.length → found[3]? = some i → next = .index (i + 1))) ∧
    (s.rlc.protocol = [⟨.dump, v⟩] →
      (s.ju.cursor = .atEnd ∨ ∃ start, s.ju.cursor = .index start ∧ occupied s.table start = []) →
      exec .sendStart s = .next { s with rlc := { s.rlc with
        protocol := [⟨.dumpEnd, 0⟩]
        attempt := some ⟨.arbitrating, .protocol, 0,
          .dumpEnd s.ju.framesSent s.ju.entriesSent s.ssu.state s.ssu.stamp, false⟩ } }) ∧
    (s.rlc.protocol = ⟨.dumpEnd, v⟩ :: rest →
      exec .sendStart s = .next { s with rlc := { s.rlc with attempt := some ⟨.arbitrating, .protocol, 0,
        .dumpEnd s.ju.framesSent s.ju.entriesSent s.ssu.state s.ssu.stamp, false⟩ } })

/-- R53, R166: a STATUS-QUERY to this post, from the gateway or in CONFIG-FAULT from any station, is answered by a
STATUS-REPLY to its sender at the tail of the service queue, and not at all when that queue is full; nothing else changes.
R43, R167: at the reply's send start its contents are settled, and in CONFIG-FAULT they are the mode alone.
Model's form: log 24. -/
def Obligations.StatusQueriesAreAnswered : Prop :=
  (∀ (f : RowFrame) (s : State) (take : Bool), Heard f s → f.rank.toNat = 4 → f.dest = .one s.strap →
    (s.mode = .configFault ∨ f.source = s.cfg.gateway) → readStatusQuery f.payload = some take →
    (s.rlc.service.length < 4 → exec (.statusQuery f) s = .next { s with rlc := { s.rlc with
      vetoDriven := false, service := s.rlc.service ++ [⟨.statusReply f.source take, 0⟩] } }) ∧
    (4 ≤ s.rlc.service.length → exec (.statusQuery f) s = .next (heard s))) ∧
  ∀ (s : State) (requester : Addr) (take : Bool) (v : Nat) (rest : List Queued), s.mode ≠ .starting →
    s.rlc.attempt = none → s.rlc.protocol = [] → s.rlc.service = ⟨.statusReply requester take, v⟩ :: rest →
    (s.mode = .configFault → exec .sendStart s = .next { s with rlc := { s.rlc with
      attempt := some ⟨.arbitrating, .service, 0, .status .configFault none, false⟩ } }) ∧
    (s.mode ≠ .configFault → ∃ body : StatusBody, exec .sendStart s = .next { s with rlc := { s.rlc with
        attempt := some ⟨.arbitrating, .service, 0, .status s.mode (some body), false⟩ } } ∧
      body.stampState = s.ssu.state ∧ body.stamp = s.ssu.stamp ∧
      (∀ b : Bay, body.bays.get b = ⟨(s.bay b).state, (s.bay b).bikeId, (s.pendingOf b).length⟩) ∧
      body.writerSegment = s.writerSegment ∧ body.flags = s.store.flags ∧ body.blocked = s.blocked ∧
      body.attentionCount = s.aq.queue.length + s.aq.waiting.length ∧
      body.attention = s.aq.queue.head?.map QueuedAttention.att)

/-- R38: at the end of the arbitration field the attempt goes on to SENDING; an attempt that loses ends with its frame at its
place and its veto count unchanged, or, where its producer has removed the frame meanwhile (R45), with the frame gone. R44: a
frame vetoed at a count below 7 stays at its place with its count raised by one, and the attempt ends. R45: one that its
producer has removed leaves its queue at any count, with no veto counted and no effect of a drop. R39: with a readback
mismatch the post drives the veto slot too, and DUPLICATE ADDRESS is recorded on LINE when that source is not masked. R40: of
another station's frame the post drives the veto slot exactly when it finds the frame damaged. R41: a frame cut off changes
nothing at a receiver, which keeps nothing of a frame before its veto slot (log 29).
Model's form: log 22; log 24. -/
def Obligations.AttemptsAreWonLostOrVetoed : Prop :=
  (∀ (s : State) (a : Attempt), s.rlc.attempt = some a → a.phase = .arbitrating →
    exec .endOfArbitrationField s = .next { s with rlc := { s.rlc with attempt := some { a with phase := .sending } } } ∧
      (a.removed = false → s.restartDue = false →
        exec .arbitrationLost s = .next { s with rlc := { s.rlc with attempt := none } }) ∧
      (a.removed = true → s.restartDue = false →
        exec .arbitrationLost s =
          .next { s with rlc := { (sent a s).rlc with vetoDriven := s.rlc.vetoDriven } })) ∧
  (∀ (s : State) (a : Attempt) (f : Frame) (v : Nat), Sending f v a s → a.removed = false → v < 7 → s.restartDue = false →
    exec (.frameVetoed (.own false)) s =
      .next { s with rlc := {
        protocol := if a.side = .protocol then s.rlc.protocol.set a.place ⟨f, v + 1⟩ else s.rlc.protocol
        service := if a.side = .service then s.rlc.service.set a.place ⟨f, v + 1⟩ else s.rlc.service
        attempt := none, vetoDriven := false } } ∧
    ∃ t, exec (.frameVetoed (.own true)) s = .next t ∧ (t.side a.side)[a.place]? = some ⟨f, v + 1⟩ ∧
      t.rlc.protocol.length = s.rlc.protocol.length ∧ t.rlc.attempt = none ∧ t.rlc.vetoDriven = true ∧
      t.table = s.table ∧ t.bays = s.bays ∧ t.tap = s.tap ∧
      (s.mode.working = true → s.masked .line = false → (Source.line, Code.duplicateAddress) ∈ attentionPairs t)) ∧
  (∀ (s : State) (a : Attempt) (f : Frame) (v : Nat), Sending f v a s → a.removed = true → s.restartDue = false →
    exec (.frameVetoed (.own false)) s = .next (sent a s) ∧
    ∃ t, exec (.frameVetoed (.own true)) s = .next t ∧ t.rlc.protocol = (sent a s).rlc.protocol ∧
      (sent a s).rlc.service <+: t.rlc.service ∧ t.rlc.attempt = none ∧ t.rlc.vetoDriven = true ∧ t.table = s.table ∧
      t.bays = s.bays ∧ t.tap = s.tap ∧ t.ce = s.ce ∧ t.ju = s.ju ∧ t.store = s.store ∧
      (s.mode.working = true → s.masked .line = false → (Source.line, Code.duplicateAddress) ∈ attentionPairs t)) ∧
  (∀ (s : State) (levels : List Bool), s.mode ≠ .starting → s.rlc.attempt = none →
    exec (.frameVetoed (.other levels)) s = .next { s with rlc := { s.rlc with vetoDriven := damaged levels } }) ∧
  ∀ s : State, exec .frameCutOff s = .next s

/-- R44: a frame vetoed at count 7 leaves its queue, the attempt ends, and FRAME DROPPED, for an OBJECT OBJECTION DROPPED, is
recorded on LINE when that source is not masked. R39: with a readback mismatch the post drives the veto slot too, and DUPLICATE
ADDRESS is recorded beside it. What else a drop does: of a LAPSE nothing; R75: a CLAIM's entry is removed,
its bay gives its reservation back and the transaction ends with LINE FAULT; R69: an OBJECT's record leaves the objection set; R80: a
JOIN is queued afresh in ANNOUNCING; R87: a dump ends, or the one owed begins; R150, R156, R164, R167: of a frame of the
service queue nothing in the store, and a NOTICE's entry loses its mark, before a fresh offer. -/
def Obligations.TheEighthVetoDropsTheFrame : Prop :=
  ∀ (s : State) (a : Attempt) (f : Frame) (readback : Bool), Sending f 7 a s → a.removed = false → s.restartDue = false →
    s.mode.working = true → s.rlc.protocol.length ≤ 12 →
    ∃ t, exec (.frameVetoed (.own readback)) s = .next t ∧ t.rlc.attempt = none ∧ t.rlc.vetoDriven = readback ∧
      (s.masked .line = false →
        (Source.line, if f.kind = .object then Code.objectionDropped else .frameDropped) ∈ attentionPairs t ∧
        (readback = true → (Source.line, Code.duplicateAddress) ∈ attentionPairs t)) ∧
      (∀ (tok : TokenId) (r : LapseReason), f = .lapse tok r → a.side = .protocol →
        t.rlc.protocol = s.rlc.protocol.eraseIdx a.place ∧ t.table = s.table ∧ t.bays = s.bays) ∧
      (∀ (tok : Token) (b c : Bay) (x : Stamp), f = .claim tok.id c x → a.side = .protocol → s.tap.phase = .claiming →
        s.tap.token = some tok → s.tap.chosen = some b →
        t.rlc.protocol = s.rlc.protocol.eraseIdx a.place ∧ t.bay b = givenBack (s.bay b) ∧
          (∀ d, d ≠ b → t.bay d = s.bay d) ∧ t.tap = { s.tap with phase := .verdict, verdict := some .lineFault } ∧
          Told (.verdict .lineFault .transaction) t ∧
          t.table = s.table.map (fun slot => slot.filter (fun e => !(e.token == tok.id && e.status == .ownPending)))) ∧
      (∀ (tok : TokenId) (c : Addr) (o : ObjectReason), f = .object tok c o → a.side = .protocol →
        t.rlc.protocol = s.rlc.protocol.eraseIdx a.place ∧ t.table = s.table ∧ t.bays = s.bays ∧
          t.ce = { s.ce with objections := s.ce.objections.filter (fun x => !(x.token == tok && x.claimant == c)) }) ∧
      (f = .join → a.side = .protocol → s.ju.join = .announcing →
        (⟨.join, 0⟩ : Queued) ∈ t.rlc.protocol ∧ t.rlc.protocol.length = s.rlc.protocol.length ∧ t.ju = s.ju) ∧
      (f = .dump ∨ f = .dumpEnd → a.side = .protocol →
        (s.ju.owed = false →
          t.rlc.protocol = s.rlc.protocol.eraseIdx a.place ∧ t.ju = { s.ju with dump := .idle } ∧ t.table = s.table) ∧
        (s.ju.owed = true → (⟨.dump, 0⟩ : Queued) ∈ t.rlc.protocol ∧ t.table = s.table ∧ t.ju = { s.ju with
          dump := .dumping, stagger := none, owed := false, cursor := .index 0, nextSeq := 0, framesSent := 0,
          entriesSent := 0 })) ∧
      (f.kind = .logReady ∨ f.kind = .logData ∨ f.kind = .statusReply ∨ f.kind = .notice → a.side = .service →
        s.rlc.service.eraseIdx a.place <+: t.rlc.service ∧ t.rlc.protocol = s.rlc.protocol ∧ t.store = s.store ∧
          (f.kind = .notice → ∀ e ∈ t.aq.queue.tail, e.noticed = false))

/-- R42, R65, R69, R80: at the echo of a LAPSE the frame leaves its queue and nothing more; at that of an OBJECT its record
leaves the objection set too; at that of the JOIN the post goes from ANNOUNCING to LISTENING too. R62: at the echo of the
post's own CLAIM the OWN-PENDING entry becomes OWN-SETTLING, the settle timer starts with the configured window and the
token's ID, and the transaction that holds the claim enters SETTLING.
Model's form: log 2; log 24. -/
def Obligations.ClaimLapseObjectAndJoinEchoes : Prop :=
  ∀ (s : State) (a : Attempt) (tok : Token) (u : TokenId) (b : Bay) (x : Stamp) (c : Addr) (r : LapseReason)
    (o : ObjectReason) (v : Nat), s.restartDue = false →
    (Sending (.lapse u r) v a s → exec .lapseEcho s = .next (sent a s)) ∧
    (Sending (.object u c o) v a s →
      exec .objectEcho s = .next { sent a s with
        ce := { s.ce with objections := s.ce.objections.filter (fun x => !(x.token == u && x.claimant == c)) } }) ∧
    (Sending .join v a s → s.ju.join = .announcing →
      exec .joinEcho s = .next { sent a s with ju := { s.ju with join := .listening } }) ∧
    (Sending (.claim tok.id b x) v a s → s.tap.phase = .claiming → s.tap.token = some tok →
      exec .claimEcho s = .next { sent a s with
        table := s.table.map (fun slot => slot.map (fun e =>
          if e.token = tok.id ∧ e.status = .ownPending then { e with status := .ownSettling } else e))
        ce := { s.ce with settle := some ⟨s.cfg.settleMs, tok.id⟩ }
        tap := { s.tap with phase := .settling } })

/-- R85: at the echo of a DUMP the counts, the next sequence and the cursor move, and the next DUMP, or at END the DUMP-END,
is queued. R86: the echo of a DUMP-END ends the dump, or begins a fresh one where one is owed. That the next sequence after
63 is 0 is the model's choice (log 9), in a state that no run reaches.
Model's form: log 24. -/
def Obligations.DumpAndDumpEndEchoes : Prop :=
  ∀ (s : State) (a : Attempt) (v : Nat) (seq : BitVec 6) (entries : List DumpEntry) (next : Cursor),
    s.restartDue = false → s.rlc.protocol.length ≤ 10 → a.side = .protocol →
    (Sending .dump v a s → a.settled = .dump seq entries next →
      ∃ t, exec .dumpEcho s = .next t ∧
        t.ju = { s.ju with
          framesSent := s.ju.framesSent + 1, entriesSent := s.ju.entriesSent + entries.length, cursor := next,
          nextSeq := s.ju.nextSeq + 1 } ∧
        (⟨if next = .atEnd then .dumpEnd else .dump, 0⟩ : Queued) ∈ t.rlc.protocol ∧ t.table = s.table) ∧
    (Sending .dumpEnd v a s →
      (s.ju.owed = false → exec .dumpEndEcho s = .next { sent a s with ju := { s.ju with dump := .idle } }) ∧
      (s.ju.owed = true →
        ∃ t, exec .dumpEndEcho s = .next t ∧ (⟨.dump, 0⟩ : Queued) ∈ t.rlc.protocol ∧ t.ju = { s.ju with
          dump := .dumping, stagger := none, owed := false, cursor := .index 0, nextSeq := 0, framesSent := 0,
          entriesSent := 0 }))

/-- R150, R156: the echo of a LOG-READY changes nothing in the store, nor does that of a LOG-DATA that is not advancing. That of
an advancing one moves the cursor of its flagged segment, when the cursor still stands at its start, to its start plus the
records sent. Short of the segment's end, and in EXPLICIT mode at the end too, no flag changes. At the end in AUTO mode the
segment's flag is cleared (the store not BLOCKED on it), and no waiting LOG-DATA of that segment is advancing any more. -/
def Obligations.StoreFrameEchoes : Prop :=
  ∀ (s : State) (a : Attempt) (v : Nat) (q : Addr) (g : Byte) (n : Nat) (start seq : BitVec 16)
    (records : List RentalRecord) (endOf adv : Bool) (r : Option Refused), s.restartDue = false →
    (Sending (.logReady n seq) v a s → ∃ t, exec .logReadyEcho s = .next t ∧ t.store = s.store) ∧
    (Sending (.logData q g start records endOf r adv) v a s →
      (¬(adv = true ∧ s.flagged g.toNat = true ∧ s.store.cursors.getD g.toNat 0 = start.toNat) →
        ∃ t, exec .logDataEcho s = .next t ∧ t.store = s.store) ∧
      (adv = true → s.flagged g.toNat = true → s.store.cursors.getD g.toNat 0 = start.toNat →
        (start.toNat + records.length ≠ s.segmentSize ∨ s.cfg.clearMode = .explicit →
          ∃ t, exec .logDataEcho s = .next t ∧ t.store = { s.store with
            cursors := s.store.cursors.set g.toNat (start.toNat + records.length) }) ∧
        (start.toNat + records.length = s.segmentSize → s.cfg.clearMode = .auto →
          s.blocked = false ∨ g.toNat ≠ s.writerSegment →
          ∃ t, exec .logDataEcho s = .next t ∧
            t.store = { s.store with
              cursors := s.store.cursors.set g.toNat (start.toNat + records.length)
              flags := s.store.flags.set g.toNat false } ∧
            ∀ (w : Queued) (q' : Addr) (start' : BitVec 16) (records' : List RentalRecord) (endOf' adv' : Bool)
              (r' : Option Refused), w ∈ t.rlc.service → w.frame = .logData q' g start' records' endOf' r' adv' →
              adv' = false)))

/-- R149 to R151: a record that takes the last slot of its segment flags the segment with its cursor at 0, queues LOG-READY
with the number of the segment's first record where the service queue has room, and raises STORE BLOCKED where the writer
comes to a flagged segment. R152: a record handed over while the store is BLOCKED waits. R153, R156, R157: the LOG-CLEAR, and
in AUTO mode the echo of the advancing LOG-DATA, that clears the flag the store is BLOCKED on writes the waiting records from
the writer position on with their held marks set, and a bay in EMPTY with its seat asserted and a record waiting begins
docking. The records here are RETURNs that tag reads hand over.
Model's form: log 13. -/
def Obligations.RecordsFillBlockAndDrainTheStore : Prop :=
  (∀ (s : State) (b : Bay) (n : Nat) (answer : List Byte) (id : BikeId) (cls : BikeClass), s.mode.working = true →
    (s.bay b).tagRead = some n → readTag answer = some (id, cls) → (s.bay b).state = .docking →
    (s.bay b).failedDock = none →
    (s.blocked = false → s.store.writer % s.segmentSize = s.segmentSize - 1 →
      ∃ t, exec (.tagReadAttemptCompletion b answer) s = .next t ∧
        t.store = { s.store with
          slots := s.store.slots.set s.store.writer (some ⟨s.store.nextSeq, s.ssu.stamp, s.ssu.state == .stale, false,
            .returned b (some id) (some cls) false⟩)
          nextSeq := s.store.nextSeq + 1, writer := (s.store.writer + 1) % 1024
          flags := s.store.flags.set s.writerSegment true, cursors := s.store.cursors.set s.writerSegment 0 } ∧
        (∀ r, s.rlc.service.length < 4 → t.store.slots[s.writerSegment * s.segmentSize]? = some (some r) →
          s.rlc.service ++ [⟨.logReady s.writerSegment r.seq, 0⟩] <+: t.rlc.service) ∧
        (t.blocked = true → s.masked .store = false → (Source.store, Code.storeBlocked) ∈ attentionPairs t)) ∧
    (s.blocked = true → ∃ t, exec (.tagReadAttemptCompletion b answer) s = .next t ∧ (t.bay b).state = .docked ∧
      t.store = { s.store with waiting := s.store.waiting ++ [.returned b (some id) (some cls) false] })) ∧
  ∀ (s : State) (c : Instr) (g : Byte), StoreLaw s → DriveLaw s → s.blocked = true → g.toNat = s.writerSegment →
    s.store.waiting.length < s.segmentSize → s.store.writer + s.store.waiting.length < 1024 →
    ((∃ f : RowFrame, c = .logClear f ∧ TakenFromGateway 4 f s ∧ f.dest = .one s.strap ∧ readLogClear f.payload = some g ∧
        g.toNat < s.cfg.segments ∧ s.rlc.service.length < 4) ∨
      (c = .logDataEcho ∧ s.restartDue = false ∧ s.cfg.clearMode = .auto ∧
        ∃ (a : Attempt) (v : Nat) (q : Addr) (start : BitVec 16) (records : List RentalRecord) (endOf : Bool)
          (r : Option Refused), Sending (.logData q g start records endOf r true) v a s ∧
          s.store.cursors.getD g.toNat 0 = start.toNat ∧ start.toNat + records.length = s.segmentSize)) →
    ∃ t, exec c s = .next t ∧ Drained s t ∧ t.blocked = false ∧ t.store.flags = s.store.flags.set g.toNat false ∧
      ∀ b : Bay, (s.bay b).state = .empty → (s.input b).seat = true → s.pendingOf b ≠ [] → s.wantsDrive b = false →
        (t.bay b).state = .docking ∧ t.wantsDrive b = true

/-- R164: at the echo of a NOTICE the marked entry leaves the queue (no record waiting to enter). R167: at the echo of a
STATUS-REPLY that carried an entry with its take flag set the oldest entry leaves; with the flag clear none does. -/
def Obligations.NoticeAndStatusReplyEchoes : Prop :=
  ∀ (s : State) (a : Attempt) (v : Nat) (n : Attention) (q : Addr) (take : Bool), s.restartDue = false →
    s.aq.waiting = [] →
    (Sending (.notice n) v a s → ∃ t, exec .noticeEcho s = .next t ∧ t.aq.waiting = [] ∧
      t.aq.queue.map QueuedAttention.att = (s.aq.queue.filter (fun e => !e.noticed)).map QueuedAttention.att) ∧
    (Sending (.statusReply q take) v a s → ∃ t, exec .statusReplyEcho s = .next t ∧ t.aq.waiting = [] ∧
      t.aq.queue.map QueuedAttention.att =
        (if take = true ∧ a.settled.carriesEntry = true then s.aq.queue.tail else s.aq.queue).map QueuedAttention.att)

/-- R161: a code raised on a masked source, or in CONFIG-FAULT, is not recorded. Otherwise the repeat count of its entry, or of
its waiting record, goes up by one to 255 at most, and for a pair found in neither an entry with count 1 and the stamp takes
the queue's tail, offered at once where it is the only one (R163), or, in a full queue, a waiting record is made: here
DUPLICATE ADDRESS on LINE. R162: when a taking STATUS-REPLY or a NOTICE takes an entry out, the highest waiting record enters
at the tail.
Model's form: log 24. -/
def Obligations.RaisedCodesAreCountedAndPromoted : Prop :=
  (∀ (s : State), s.mode ≠ .starting → s.rlc.attempt = none →
    (s.mode = .configFault ∨ s.masked .line = true → exec .ownAddressFrameReceived s = .next (heard s)) ∧
    (s.mode.working = true → s.masked .line = false → AttentionLaw s →
      (∀ (i : Nat) (e : QueuedAttention), s.aq.queue[i]? = some e → e.att.source = .line →
        e.att.code = .duplicateAddress →
        exec .ownAddressFrameReceived s = .next { heard s with aq := { s.aq with
          queue := s.aq.queue.set i { e with att := { e.att with count := min 255 (e.att.count + 1) } } } }) ∧
      (∀ (i : Nat) (a : Attention), s.aq.waiting[i]? = some a → a.source = .line → a.code = .duplicateAddress →
        exec .ownAddressFrameReceived s = .next { heard s with aq := { s.aq with
          waiting := s.aq.waiting.set i { a with count := min 255 (a.count + 1) } } }) ∧
      ((Source.line, Code.duplicateAddress) ∉ attentionPairs s →
        (s.aq.queue.length < 16 → ∃ t, exec .ownAddressFrameReceived s = .next t ∧ t.aq.waiting = s.aq.waiting ∧
          t.aq.queue.map QueuedAttention.att =
            s.aq.queue.map QueuedAttention.att ++ [⟨.line, .duplicateAddress, s.ssu.stamp, 1⟩] ∧
          (s.aq.queue = [] → s.cfg.notices = true → s.aq.hush = false → (∀ q ∈ s.rlc.service, q.frame.kind ≠ .notice) →
            s.rlc.service.length < 4 →
            t.aq.queue.map QueuedAttention.noticed = [true] ∧
              t.rlc.service = s.rlc.service ++ [⟨.notice ⟨.line, .duplicateAddress, s.ssu.stamp, 1⟩, 0⟩])) ∧
        (16 ≤ s.aq.queue.length → exec .ownAddressFrameReceived s = .next { heard s with aq := { s.aq with
          waiting := s.aq.waiting ++ [⟨.line, .duplicateAddress, s.ssu.stamp, 1⟩] } })))) ∧
  ∀ (s : State) (a : Attempt) (v i : Nat) (w : Attention), AttentionLaw s → s.restartDue = false →
    Highest s.aq.waiting i w →
    (∀ (q : Addr) (m : PostMode) (body : StatusBody), Sending (.statusReply q true) v a s →
      a.settled = .status m (some body) → body.attention ≠ none →
      ∃ t, exec .statusReplyEcho s = .next t ∧ t.aq.waiting = s.aq.waiting.eraseIdx i ∧
        t.aq.queue.map QueuedAttention.att = s.aq.queue.tail.map QueuedAttention.att ++ [w]) ∧
    (∀ n : Attention, Sending (.notice n) v a s → (∃ e ∈ s.aq.queue, e.noticed = true) →
      ∃ t, exec .noticeEcho s = .next t ∧ t.aq.waiting = s.aq.waiting.eraseIdx i ∧
        t.aq.queue.map QueuedAttention.att =
          (s.aq.queue.filter (fun e => !e.noticed)).map QueuedAttention.att ++ [w])

/-! ### Frames of other stations -/

/-- R72: a LAPSE from station C removes the entry for its token when that entry is PEER-CLAIMED with claimant C and leaves
every other entry as it is, and nothing else of the post changes (its veto output apart), whatever its reason; in a table
that holds no token twice the token is then unknown. -/
def Obligations.LapseHeardRemovesItsSendersClaim : Prop :=
  ∀ (f : RowFrame) (s : State) (tok : TokenId), TakenFromAny 1 f s → readLapse f.payload = some tok →
    ∃ t, exec (.lapse f) s = .next t ∧
      t.table = s.table.map (fun slot => slot.filter (fun e =>
        !(e.token == tok && e.status == .peerClaimed && e.claimant == some f.source))) ∧
      t = { s with table := t.table, rlc := { s.rlc with vetoDriven := t.rlc.vetoDriven } } ∧
      (TableLaw s → (∃ e, s.entry tok = some e ∧ e.status = .peerClaimed ∧ e.claimant = some f.source) →
        t.entry tok = none)

/-- R21, R66: a CLAIM for a token the table does not hold is entered as PEER-CLAIMED by its sender, with the bay and expiry it
carries and the mark clear. R19: with a place free it takes the lowest free index, and nothing else changes. R22: in a full
table it takes the index of the evictable entry whose expiry is earliest, the lowest of equals, and TABLE PRESSURE is recorded
on TABLE when that source is not masked.
Model's form: log 11; log 24. -/
def Obligations.ClaimHeardOfAnUnknownTokenIsEntered : Prop :=
  ∀ (f : RowFrame) (s : State) (tok : TokenId) (b : Bay) (x : Stamp) (i : Nat), TakenFromAny 1 f s →
    readClaim f.payload = some (tok, b, x) → s.entry tok = none →
    (s.table.findIdx? Option.isNone = some i →
      exec (.claim f) s = .next (State.closingCheck { heard s with
        table := s.table.set i (some ⟨tok, .peerClaimed, some f.source, some b, x, false⟩) })) ∧
    (Evicts s.table i →
      ∃ t, exec (.claim f) s = .next t ∧ t.bays = s.bays ∧ t.tap = s.tap ∧ t.ce = s.ce ∧
        t.rlc.protocol = s.rlc.protocol ∧
        t.table = s.table.set i (some ⟨tok, .peerClaimed, some f.source, some b, x, false⟩) ∧
        (s.masked .table = false → (Source.table, Code.tablePressure) ∈ attentionPairs t))

/-- R66, R68: a CLAIM for a token the table holds is objected to with the reason its entry gives, when the set has room and
no record for the token and claimant and the protocol queue has room: the OBJECT waits behind the OBJECTs of the queue and
the record joins the set. Where the set has a record for the token and claimant the OBJECT is declined with no effect, and
where it holds 5 records, none of them for the token and claimant, it is dropped with OBJECTION DROPPED on LINE. A repeated
CLAIM of the claimant the entry names changes nothing.
Model's form: log 11; log 24. -/
def Obligations.ClaimHeardForAKnownTokenIsObjectedTo : Prop :=
  ∀ (f : RowFrame) (s : State) (tok : TokenId) (b : Bay) (x : Stamp) (e : Entry), TakenFromAny 1 f s →
    readClaim f.payload = some (tok, b, x) → s.entry tok = some e →
    (e.status = .peerClaimed → e.claimant = some f.source → exec (.claim f) s = .next (State.closingCheck (heard s))) ∧
    (∀ reason : ObjectReason,
      ((e.status = .ownSettling ∨ e.status = .ownHeld ∨ e.status = .ownTaken ∨
          (e.status = .peerClaimed ∧ e.claimant ≠ some f.source)) ∧ reason = .spent
        ∨ e.status = .void ∧ reason = .void ∨ e.status = .revoked ∧ reason = .revoked) →
      (s.ce.objections.length < 5 → (∀ o ∈ s.ce.objections, ¬(o.token = tok ∧ o.claimant = f.source)) →
        s.rlc.protocol.length < 12 →
        ∃ t, exec (.claim f) s = .next t ∧ t.ce.objections = s.ce.objections ++ [⟨tok, f.source⟩] ∧
          t.ce.settle = s.ce.settle ∧ t.table = s.table ∧ t.tap = s.tap ∧ t.bays = s.bays ∧
          t.rlc.protocol = s.rlc.protocol.takeWhile (fun q => q.frame.kind.rank = 0)
            ++ ⟨.object tok f.source reason, 0⟩ :: s.rlc.protocol.dropWhile (fun q => q.frame.kind.rank = 0)) ∧
      ((∃ o ∈ s.ce.objections, o.token = tok ∧ o.claimant = f.source) →
        exec (.claim f) s = .next (State.closingCheck (heard s))) ∧
      (5 ≤ s.ce.objections.length → (∀ o ∈ s.ce.objections, ¬(o.token = tok ∧ o.claimant = f.source)) →
        ∃ t, exec (.claim f) s = .next t ∧ t.ce = s.ce ∧ t.table = s.table ∧ t.tap = s.tap ∧ t.bays = s.bays ∧
          t.rlc.protocol = s.rlc.protocol ∧
          (s.masked .line = false → (Source.line, Code.objectionDropped) ∈ attentionPairs t)))

/-- R66: a CLAIM for the token of the post's own OWN-PENDING claim puts the sender's entry in its place, takes the own CLAIM
out of the protocol queue, wherever it waits there (R45, R61), gives the chosen bay's reservation back, which leaves a bay
that is no longer RESERVED as it is (R103, R123), and ends the transaction with CLAIMED ELSEWHERE. -/
def Obligations.ClaimHeardReplacesThePendingClaim : Prop :=
  ∀ (f : RowFrame) (s : State) (tok : Token) (b c : Bay) (x : Stamp) (e : Entry), TakenFromAny 1 f s →
    readClaim f.payload = some (tok.id, b, x) → s.entry tok.id = some e → e.status = .ownPending →
    s.tap.phase = .claiming → s.tap.token = some tok → s.tap.chosen = some c →
    ∃ t, exec (.claim f) s = .next t ∧ Without (ClaimFor tok.id) s.rlc.protocol t.rlc.protocol ∧
      t.bay c = givenBack (s.bay c) ∧ (∀ d, d ≠ c → t.bay d = s.bay d) ∧
      t.tap = { s.tap with phase := .verdict, verdict := some .claimedElsewhere } ∧
      Told (.verdict .claimedElsewhere .transaction) t ∧ t.rlc.service = s.rlc.service ∧ t.aq = s.aq ∧
      t.table = s.table.map (fun slot => slot.map (fun z =>
        if z.token = tok.id then ⟨tok.id, .peerClaimed, some f.source, some b, x, false⟩ else z))

/-- R70: an OBJECT against another station makes that station's PEER-CLAIMED entry VOID, with its other fields kept; one
against this post that finds the claim held or taken changes no entry and records LATE OBJECTION on TABLE, when that source
is not masked (no OBJECT of this post for the same token and claimant waiting). One against this post's settling claim makes
the entry VOID, stops the settle timer, gives the chosen bay's reservation back, which leaves a bay that is no longer RESERVED
as it is (R103), and ends the transaction with OBJECTED. R69: an
OBJECT for the token and claimant of one that waits here, no attempt being in flight, removes it from the queue and its record
from the set, whatever the table holds of the token; with no record for them the queue and the set stay.
Model's form: log 11; log 24. -/
def Obligations.ObjectHeard : Prop :=
  (∀ (f : RowFrame) (s : State) (tok : TokenId) (c : Addr) (e : Entry), TakenFromAny 0 f s →
    readObject f.payload = some (tok, c) → s.entry tok = some e →
    (∀ o ∈ s.ce.objections, ¬(o.token = tok ∧ o.claimant = c)) →
    (e.status = .peerClaimed → e.claimant = some c → c ≠ s.strap →
      exec (.object f) s = .next (State.closingCheck { heard s with
        table := s.table.map (fun slot => slot.map (fun x => if x.token = tok then { x with status := .void } else x)) })) ∧
    ((e.status = .ownHeld ∨ e.status = .ownTaken) → c = s.strap → s.masked .table = false →
      ∃ t, exec (.object f) s = .next t ∧ t.table = s.table ∧ t.bays = s.bays ∧ t.tap = s.tap ∧
        (Source.table, Code.lateObjection) ∈ attentionPairs t)) ∧
  (∀ (f : RowFrame) (s : State) (tok : TokenId) (c : Addr), TakenFromAny 0 f s →
    readObject f.payload = some (tok, c) → ∃ t, exec (.object f) s = .next t ∧
      (∀ (before after : List Queued) (o : ObjectReason) (v : Nat), (⟨tok, c⟩ : Objection) ∈ s.ce.objections →
        s.rlc.protocol = before ++ ⟨.object tok c o, v⟩ :: after →
        (∀ q ∈ before, ∀ o', q.frame ≠ .object tok c o') →
        t.ce.objections = s.ce.objections.filter (fun x => !(x.token == tok && x.claimant == c)) ∧
        t.rlc.protocol = before ++ after) ∧
      ((∀ x ∈ s.ce.objections, ¬(x.token = tok ∧ x.claimant = c)) → t.ce.objections = s.ce.objections ∧
        t.rlc.protocol = s.rlc.protocol)) ∧
  ∀ (f : RowFrame) (s : State) (tok : Token) (c : Bay) (n : Nat) (e : Entry), TakenFromAny 0 f s →
    readObject f.payload = some (tok.id, s.strap) → s.entry tok.id = some e → e.status = .ownSettling →
    s.ce.settle = some ⟨n, tok.id⟩ → s.tap.phase = .settling → s.tap.token = some tok → s.tap.chosen = some c →
    ∃ t, exec (.object f) s = .next t ∧ t.ce.settle = none ∧ t.bay c = givenBack (s.bay c) ∧
      (∀ d, d ≠ c → t.bay d = s.bay d) ∧ t.tap = { s.tap with phase := .verdict, verdict := some .objected } ∧
      Told (.verdict .objected .transaction) t ∧
      t.table = s.table.map (fun slot => slot.map (fun x => if x.token = tok.id then { x with status := .void } else x))

/-- R73: a REVOKE for a token the table does not hold is inserted as REVOKED (R19, R22); one for a token held PEER-CLAIMED, VOID
or REVOKED makes or keeps the entry REVOKED, with no claimant and the later of the two expiries; neither changes anything
else, but for TABLE PRESSURE. One for the post's own pending or settling claim makes the entry REVOKED likewise, takes the
CLAIM out of the protocol queue, wherever it waits there (R45, R61), or stops the settle timer, gives the chosen bay's
reservation back, which leaves a bay that is no longer RESERVED as it is (R103), and ends the transaction with REVOKED. For a token held OWN-HELD
or OWN-TAKEN it keeps the status and sets the mark and the later expiry, and records REVOKED LATE on TABLE when the mark was
clear and the source is not masked.
Model's form: log 11; log 24. -/
def Obligations.RevokeHeard : Prop :=
  ∀ (f : RowFrame) (s : State) (tok : TokenId) (x : Stamp), TakenFromGateway 2 f s → (∀ a, f.dest ≠ .one a) →
    readRevoke f.payload = some (tok, x) →
    (∀ i : Nat, s.entry tok = none →
      (s.table.findIdx? Option.isNone = some i → exec (.revoke f) s = .next (State.closingCheck { heard s with
        table := s.table.set i (some ⟨tok, .revoked, none, none, x, false⟩) })) ∧
      (Evicts s.table i → ∃ t, exec (.revoke f) s = .next t ∧ t.bays = s.bays ∧ t.tap = s.tap ∧
        t.table = s.table.set i (some ⟨tok, .revoked, none, none, x, false⟩) ∧
        (s.masked .table = false → (Source.table, Code.tablePressure) ∈ attentionPairs t))) ∧
    ∀ (e : Entry) (revoked : List (Option Entry)), s.entry tok = some e →
      revoked = s.table.map (fun slot => slot.map (fun y => if y.token = tok then
          { y with status := .revoked, claimant := none, bay := none, expiry := laterStamp y.expiry x } else y)) →
      ((e.status = .peerClaimed ∨ e.status = .void ∨ e.status = .revoked) →
        exec (.revoke f) s = .next (State.closingCheck { heard s with table := revoked })) ∧
      (∀ (T : Token) (c : Bay) (n : Nat), T.id = tok → s.tap.token = some T → s.tap.chosen = some c →
        (e.status = .ownPending ∧ s.tap.phase = .claiming ∨
          e.status = .ownSettling ∧ s.tap.phase = .settling ∧ s.ce.settle = some ⟨n, tok⟩) →
        ∃ t, exec (.revoke f) s = .next t ∧ t.table = revoked ∧
          (e.status = .ownPending → Without (ClaimFor tok) s.rlc.protocol t.rlc.protocol) ∧
          (e.status = .ownSettling → t.rlc.protocol = s.rlc.protocol) ∧
          t.ce.settle = (if e.status = .ownSettling then none else s.ce.settle) ∧
          t.bay c = givenBack (s.bay c) ∧ (∀ b, b ≠ c → t.bay b = s.bay b) ∧
          t.tap = { s.tap with phase := .verdict, verdict := some .revoked } ∧
          Told (.verdict .revoked .transaction) t) ∧
      ((e.status = .ownHeld ∨ e.status = .ownTaken) →
        ∃ t, exec (.revoke f) s = .next t ∧ t.bays = s.bays ∧ t.tap = s.tap ∧
          t.table = s.table.map (fun slot => slot.map (fun y => if y.token = tok then
            { y with revokedLate := true, expiry := laterStamp y.expiry x } else y)) ∧
          (e.revokedLate = true → t.aq = s.aq) ∧
          (e.revokedLate = false → s.masked .table = false → (Source.table, Code.revokedLate) ∈ attentionPairs t))

/-- R13: a BEACON is answered by the stamp state and the comparison of its time with the stamp.
Model's form: log 2; log 24. -/
def Obligations.BeaconHeard : Prop :=
  ∀ (f : RowFrame) (s : State) (T a : Stamp), TakenFromGateway 2 f s → f.dest = .all → readBeacon f.payload = some T →
    (s.ssu.state = .unset ∨ (s.ssu.state ≠ .unset ∧ s.ssu.stamp = some a ∧ a.toNat < T.toNat) →
      exec (.beacon f) s = .next { heard s with
        ssu := ⟨some T, .set, some (60000 * s.cfg.beaconLossMin), some 1000⟩
        table := s.table.map (fun slot => slot.filter (fun e => !(e.status.evictable && e.expiry.toNat < T.toNat))) }) ∧
    (s.ssu.state ≠ .unset → s.ssu.stamp = some a → T = a →
      exec (.beacon f) s = .next { heard s with
        ssu := ⟨some a, .set, some (60000 * s.cfg.beaconLossMin), some 1000⟩ }) ∧
    (s.ssu.state ≠ .unset → s.ssu.stamp = some a → T.toNat < a.toNat →
      ∃ t, exec (.beacon f) s = .next t ∧
        t.ssu = { s.ssu with state := .set, beaconLoss := some (60000 * s.cfg.beaconLossMin) } ∧ t.table = s.table ∧
        (s.masked .stamp = false → (Source.stamp, Code.clockAhead) ∈ attentionPairs t))

/-- R79, R81, R83: a JOIN heard in JOINING changes nothing; out of it, it starts the stagger of an idle post with a delay, begins
the dump of an idle post whose delay is 0 at once, is served by a stagger that runs, and sets dump-owed at a post that dumps.
Model's form: log 2; log 24. -/
def Obligations.JoinHeard : Prop :=
  ∀ (f : RowFrame) (s : State), TakenFromAny 2 f s → f.payload = [] →
    (s.mode = .joining → exec (.join f) s = .next (heard s)) ∧
    (s.mode ≠ .joining →
      (s.ju.dump = .idle → 0 < s.strap.toNat * s.cfg.dumpStaggerMs →
        exec (.join f) s = .next { heard s with
          ju := { s.ju with dump := .stagger, stagger := some (s.strap.toNat * s.cfg.dumpStaggerMs) } }) ∧
      (s.ju.dump = .idle → s.strap.toNat * s.cfg.dumpStaggerMs = 0 → s.rlc.protocol.length < 12 →
        ∃ (t : State) (before after : List Queued), exec (.join f) s = .next t ∧ t.mode = s.mode ∧ t.table = s.table ∧
          s.rlc.protocol = before ++ after ∧ t.rlc.protocol = before ++ ⟨.dump, 0⟩ :: after ∧ t.ju = { s.ju with
            dump := .dumping, stagger := none, owed := false, cursor := .index 0, nextSeq := 0, framesSent := 0,
            entriesSent := 0 }) ∧
      (s.ju.dump = .stagger → exec (.join f) s = .next (heard s)) ∧
      (s.ju.dump = .dumping → exec (.join f) s = .next { heard s with ju := { s.ju with owed := true } }))

/-- R82, R88: a DUMP heard out of JOINING merges nothing: with sequence 0 it cancels a stagger or clears dump-owed, with
another it changes nothing. In JOINING its entries are merged in their order by the ranks of R29, unknown ones inserted as R21
and R22 state. R89: a DUMP with the sequence expected of the tracked dumper counts its frame and its entries. One with sequence
0, from the tracked dumper or from any station where none is tracked, begins the tracking of its sender, and the first such
frame heard while the join window runs, from whatever station, starts the window again, once. Any other sequence of the tracked
dumper ends the tracking; a DUMP of another station, or with no dumper tracked one of another sequence, changes nothing of it.
Model's form: log 24. -/
def Obligations.DumpHeard : Prop :=
  ∀ (f : RowFrame) (s : State) (seq : Nat) (entries : List DumpEntry), TakenFromAny 3 f s →
    readDump f.payload = some (seq, entries) →
    (s.mode ≠ .joining → seq ≠ 0 → exec (.dump f) s = .next (heard s)) ∧
    (s.mode ≠ .joining → seq = 0 → s.ju.dump = .stagger →
      exec (.dump f) s = .next { heard s with ju := { s.ju with dump := .idle, stagger := none } }) ∧
    (s.mode ≠ .joining → seq = 0 → s.ju.dump = .dumping →
      exec (.dump f) s = .next { heard s with ju := { s.ju with owed := false } }) ∧
    (s.mode = .joining → ∃ t, exec (.dump f) s = .next t ∧ MergesAll s.table entries t.table ∧ t.bays = s.bays ∧
      t.tap = s.tap ∧ t.ssu = s.ssu) ∧
    (s.mode = .joining → s.ju.tracked = some f.source → seq = s.ju.framesCounted → seq ≠ 0 →
      ∃ t, exec (.dump f) s = .next t ∧ t.mode = .joining ∧ t.ju = { s.ju with
        framesCounted := s.ju.framesCounted + 1, entriesCounted := s.ju.entriesCounted + entries.length }) ∧
    (s.mode = .joining → ∀ j : JoinUnit, j = (if seq = 0 ∧ s.ju.window ≠ none ∧ s.ju.restartUsed = false then
        { s.ju with window := some (1000 * s.cfg.joinWindowS), restartUsed := true } else s.ju) →
      (seq = 0 → s.ju.tracked = none ∨ s.ju.tracked = some f.source → ∃ t, exec (.dump f) s = .next t ∧
        t.mode = .joining ∧ t.ju = { j with
          tracked := some f.source, framesCounted := 1, entriesCounted := entries.length }) ∧
      (s.ju.tracked = some f.source → seq ≠ 0 → seq ≠ s.ju.framesCounted → ∃ t, exec (.dump f) s = .next t ∧
        t.mode = .joining ∧ t.ju = { j with tracked := none, framesCounted := 0, entriesCounted := 0 }) ∧
      ((∃ d, s.ju.tracked = some d ∧ d ≠ f.source) ∨ s.ju.tracked = none ∧ seq ≠ 0 → ∃ t, exec (.dump f) s = .next t ∧
        t.mode = .joining ∧ t.ju = j))

/-- R90, R92: in JOINING a DUMP-END whose counts are those of the tracked dumper, or that counts no frame where none is
tracked, ends the join in SERVICE with the joiner's side at its reset values and a JOIN that waits removed; unequal counts
clear the tracking; one of another station than the tracked one, or where none is tracked with another frame count, changes
nothing of the join. R15: in every
mode and whatever its counts, the dumper's stamp is taken while the stamp state is UNSET, with SET, both timers started and
the sweep. R82: out of JOINING a DUMP-END with frame count 0 is a dump opening, which cancels a stagger or clears dump-owed; one
with another count changes nothing of the Join Unit.
Model's form: log 2. -/
def Obligations.DumpEndHeard : Prop :=
  ∀ (f : RowFrame) (s : State) (frames entries : Nat) (stamp : Option Stamp), TakenFromAny 3 f s →
    readDumpEnd f.payload = some (frames, entries, stamp) →
    (s.mode = .joining →
      (s.ju.tracked = some f.source ∧ frames = s.ju.framesCounted ∧ entries = s.ju.entriesCounted ∨
          s.ju.tracked = none ∧ frames = 0 →
        ∃ t, exec (.dumpEnd f) s = .next t ∧ t.mode = .service ∧ Without (· = .join) s.rlc.protocol t.rlc.protocol ∧
          t.ju = { s.ju with
            window := none, tracked := none, framesCounted := 0, entriesCounted := 0, restartUsed := false, join := .off }) ∧
      (s.ju.tracked = some f.source → ¬(frames = s.ju.framesCounted ∧ entries = s.ju.entriesCounted) →
        ∃ t, exec (.dumpEnd f) s = .next t ∧ t.mode = .joining ∧ t.rlc.protocol = s.rlc.protocol ∧
          t.ju = { s.ju with tracked := none, framesCounted := 0, entriesCounted := 0 }) ∧
      ((∃ d, s.ju.tracked = some d ∧ d ≠ f.source) ∨ s.ju.tracked = none ∧ frames ≠ 0 →
        ∃ t, exec (.dumpEnd f) s = .next t ∧ t.mode = .joining ∧ t.rlc.protocol = s.rlc.protocol ∧ t.ju = s.ju)) ∧
    (s.mode ≠ .joining → ∃ t, exec (.dumpEnd f) s = .next t ∧ t.mode = s.mode ∧ t.rlc.protocol = s.rlc.protocol ∧
      (frames = 0 → s.ju.dump = .stagger → t.ju = { s.ju with dump := .idle, stagger := none }) ∧
      (frames = 0 → s.ju.dump = .dumping → t.ju = { s.ju with owed := false }) ∧
      (frames ≠ 0 ∨ s.ju.dump = .idle → t.ju = s.ju)) ∧
    (∀ a, stamp = some a → s.ssu.state = .unset → ∃ t, exec (.dumpEnd f) s = .next t ∧
      t.ssu = ⟨some a, .set, some (60000 * s.cfg.beaconLossMin), some 1000⟩ ∧
      t.table = s.table.map (fun slot => slot.filter (fun e => !(e.status.evictable && e.expiry.toNat < a.toNat)))) ∧
    (stamp = none ∨ s.ssu.state ≠ .unset → ∃ t, exec (.dumpEnd f) s = .next t ∧ t.ssu = s.ssu ∧ t.table = s.table)

/-- R155, R157: a LOG-FETCH and a LOG-CLEAR that find room in the service queue are answered at its tail. A fetch of a segment
or start out of range is answered with RANGE (the segment and start that this answer carries are the model's choice, log 35)
and another with the records of its slots, the end-of-segment mark set when the segment's last slot is sent, advancing when it
sends records of a flagged segment from its cursor on; nothing else changes. An unflagged segment's clearing is answered NOT
READY. A flagged segment's is answered without a refusal and clears the flag (the store not BLOCKED on it), and no waiting
LOG-DATA of that segment is advancing any more. With the queue full neither changes anything.
Model's form: log 11; log 24; log 35. -/
def Obligations.GatewayRequestsAreAnsweredInTheServiceQueue : Prop :=
  ∀ (f : RowFrame) (s : State) (a : Addr) (g : Byte) (start count : Nat), TakenFromGateway 4 f s → f.dest = .one a →
    (readLogFetch f.payload = some (g, start, count) →
      (s.rlc.service.length < 4 →
        (s.cfg.segments ≤ g.toNat ∨ s.segmentSize ≤ start →
          exec (.logFetch f) s = .next { s with rlc := { s.rlc with
            vetoDriven := false
            service := s.rlc.service ++
              [⟨.logData f.source g (BitVec.ofNat 16 start) [] false (some .range) false, 0⟩] } }) ∧
        (g.toNat < s.cfg.segments → start < s.segmentSize →
          ∃ (records : List RentalRecord) (endOf adv : Bool), Fetched s g.toNat start count records ∧
            (endOf = true ↔ records ≠ [] ∧ start + records.length = s.segmentSize) ∧
            (adv = true ↔ s.flagged g.toNat = true ∧ s.store.cursors.getD g.toNat 0 = start ∧ records ≠ []) ∧
            exec (.logFetch f) s = .next { s with rlc := { s.rlc with
              vetoDriven := false
              service := s.rlc.service ++
                [⟨.logData f.source g (BitVec.ofNat 16 start) records endOf none adv, 0⟩] } })) ∧
      (4 ≤ s.rlc.service.length → exec (.logFetch f) s = .next (heard s))) ∧
    (readLogClear f.payload = some g →
      s.cfg.segments ≤ g.toNat ∨ s.flagged g.toNat = false ∨ 4 ≤ s.rlc.service.length →
      (s.rlc.service.length < 4 → exec (.logClear f) s = .next (State.closingCheck { s with rlc := { s.rlc with
        vetoDriven := false
        service := s.rlc.service ++ [⟨.logData f.source g 0 [] false
          (some (if s.cfg.segments ≤ g.toNat then .range else .notReady)) false, 0⟩] } })) ∧
      (4 ≤ s.rlc.service.length → exec (.logClear f) s = .next (State.closingCheck (heard s)))) ∧
    (readLogClear f.payload = some g → g.toNat < s.cfg.segments → s.flagged g.toNat = true → s.rlc.service.length < 4 →
      ∃ t, exec (.logClear f) s = .next t ∧
        (⟨.logData f.source g 0 [] false none false, 0⟩ : Queued) ∈ t.rlc.service ∧ t.table = s.table ∧
        (∀ (w : Queued) (q : Addr) (start' : BitVec 16) (records : List RentalRecord) (endOf adv : Bool)
          (r : Option Refused), w ∈ t.rlc.service → w.frame = .logData q g start' records endOf r adv → adv = false) ∧
        (s.blocked = false ∨ g.toNat ≠ s.writerSegment →
          t.store = { s.store with flags := s.store.flags.set g.toNat false } ∧ t.bays = s.bays))

/-- R51, R54: frames of the four service kinds and of unknown kinds are discarded without effect. R51 to R53: so is a frame of
any other kind, a row action too, whose payload does not read, whose rank or destination form is not its kind's, whose
destination does not name the post, that is of a gateway kind and not from the gateway, or that is taken in CONFIG-FAULT and is
no STATUS-QUERY. R39: a frame that carries the post's own address, and OWN_ADDRESS_FRAME_RECEIVED, records DUPLICATE ADDRESS on
LINE when that source is not masked, whatever else the frame is.
Model's form: log 24; log 36. -/
def Obligations.DiscardedFrames : Prop :=
  ∀ (k : ServiceKind) (code : Byte) (f : RowFrame) (s : State),
    (Heard f s → exec (.serviceFrameDiscarded k f) s = .next (heard s) ∧
      exec (.unknownKindFrame code f) s = .next (heard s)) ∧
    (∀ (c : Instr) (w : FrameRow), frameRow c = some w → Heard w.frame s →
      (w.reads = false ∨ w.frame.rank.toNat ≠ w.rank ∨ w.form = false ∨ ¬Reaches w.frame.dest s.strap ∨
        w.gateway = true ∧ s.mode ≠ .configFault ∧ w.frame.source ≠ s.cfg.gateway ∨
        s.mode = .configFault ∧ (∀ q, c ≠ .statusQuery q)) → exec c s = .next (heard s)) ∧
    (s.mode.working = true → s.rlc.attempt = none → s.masked .line = false →
      ∃ t, exec .ownAddressFrameReceived s = .next t ∧ (Source.line, Code.duplicateAddress) ∈ attentionPairs t ∧
        t.table = s.table ∧ t.tap = s.tap ∧ t.bays = s.bays ∧ t.store = s.store ∧ t.rlc.protocol = s.rlc.protocol ∧
        (f.source = s.strap → exec (.serviceFrameDiscarded k f) s = .next t ∧ exec (.unknownKindFrame code f) s = .next t) ∧
        ∀ (c : Instr) (w : FrameRow), frameRow c = some w → w.frame.source = s.strap → exec c s = .next t)

/-! ### Row actions -/

/-- R169: each immediate action in its mode makes its mode change or moves the hush flag and touches nothing else (HOLD and
MAINTAIN-ENTER where the transaction's phase calls for no abort); in any other mode the four mode actions have no effect.
Model's form: log 11; log 24. -/
def Obligations.ImmediateActions : Prop :=
  ∀ (f : RowFrame) (s : State) (bay : Option Bay),
    (TakenAction .hold bay f s → s.mode = .service →
      (s.tap.phase = .idle ∨ s.tap.phase = .settling ∨ s.tap.phase = .releaseStart ∨ s.tap.phase = .verdict) →
      exec (.hold f) s = .next { heard s with mode := .hold }) ∧
    (TakenAction .hold bay f s → s.mode ≠ .service → exec (.hold f) s = .next (State.closingCheck (heard s))) ∧
    (TakenAction .resume bay f s → s.mode = .hold → exec (.resume f) s = .next { heard s with mode := .service }) ∧
    (TakenAction .resume bay f s → s.mode ≠ .hold → exec (.resume f) s = .next (State.closingCheck (heard s))) ∧
    (TakenAction .maintainEnter bay f s →
      (s.mode = .hold ∨ s.mode = .service ∧
        (s.tap.phase = .idle ∨ s.tap.phase = .settling ∨ s.tap.phase = .releaseStart ∨ s.tap.phase = .verdict)) →
      exec (.maintainEnter f) s =
        .next { heard s with mode := if s.allBaysIdle = true then .maintenance else .closing }) ∧
    (TakenAction .maintainEnter bay f s → s.mode ≠ .service → s.mode ≠ .hold →
      exec (.maintainEnter f) s = .next (State.closingCheck (heard s))) ∧
    (TakenAction .maintainExit bay f s → s.mode = .closing ∨ s.mode = .maintenance →
      exec (.maintainExit f) s = .next { heard s with mode := .service }) ∧
    (TakenAction .maintainExit bay f s → s.mode ≠ .closing → s.mode ≠ .maintenance →
      exec (.maintainExit f) s = .next (heard s)) ∧
    (TakenAction .hush bay f s →
      exec (.hush f) s = .next (State.closingCheck { heard s with aq := { s.aq with hush := true } })) ∧
    (TakenAction .unhush bay f s →
      (s.aq.queue = [] → exec (.unhush f) s = .next (State.closingCheck { heard s with aq := { s.aq with hush := false } })) ∧
      (∀ (e : QueuedAttention) (rest : List QueuedAttention), s.aq.queue = e :: rest → s.cfg.notices = true →
        (∀ q ∈ s.rlc.service, q.frame.kind ≠ .notice) → s.rlc.service.length < 4 →
        ∃ t, exec (.unhush f) s = .next t ∧ t.rlc.service = s.rlc.service ++ [⟨.notice e.att, 0⟩] ∧
          t.aq = { queue := { e with noticed := true } :: rest, waiting := s.aq.waiting, hush := false }))

/-- R10, R107: HOLD, or MAINTAIN-ENTER with bays or the transaction busy, taken in SERVICE sets the closed mark of a
transaction in INTAKE; ends one in CHECKING with POST CLOSED and its check cancelled; and ends one in CLAIMING with POST
CLOSED, its OWN-PENDING entry removed, its CLAIM taken out of the protocol queue, wherever it waits there (R45, R61), and its
bay's reservation given back, which leaves a bay that is no longer RESERVED as it is (R123).
Model's form: log 24. -/
def Obligations.LeavingServiceAbortsTheTransaction : Prop :=
  ∀ (f : RowFrame) (s : State) (bay : Option Bay) (c : Instr) (m : PostMode) (tok : Token) (b : Bay),
    (c = .hold f ∧ m = .hold ∧ TakenAction .hold bay f s ∨
      c = .maintainEnter f ∧ m = .closing ∧ TakenAction .maintainEnter bay f s) → s.mode = .service →
    (s.tap.phase = .intake → exec c s = .next { heard s with mode := m, tap := { s.tap with closed := true } }) ∧
    (s.tap.phase = .checking → ∃ t, exec c s = .next t ∧ t.mode = m ∧ t.tcu = ⟨false, none⟩ ∧
      t.tap = { s.tap with phase := .verdict, verdict := some .postClosed } ∧ Told (.verdict .postClosed .transaction) t ∧
      t.table = s.table ∧ t.bays = s.bays ∧ t.rlc.protocol = s.rlc.protocol) ∧
    (s.tap.phase = .claiming → s.tap.token = some tok → s.tap.chosen = some b →
      ∃ t, exec c s = .next t ∧ t.mode = m ∧ Without (ClaimFor tok.id) s.rlc.protocol t.rlc.protocol ∧
        t.bay b = givenBack (s.bay b) ∧ (∀ d, d ≠ b → t.bay d = s.bay d) ∧
        t.tap = { s.tap with phase := .verdict, verdict := some .postClosed } ∧
        Told (.verdict .postClosed .transaction) t ∧
        t.table = s.table.map (fun slot => slot.filter (fun e => !(e.token == tok.id && e.status == .ownPending))))

/-- R168, R170: an action whose code is not in the mask changes nothing. An actuating action in the mask, at a post whose
delay is not 0, takes the tail of the delay list with a fresh delay, in place of a record with its code and bay argument (a
RESTART keeps no bay argument); at a list full of other records it is dropped with ACTION DROPPED on POST. At a post whose
delay is 0 it is applied in the reception event, as at the expiry of its delay, and the list stays as it was.
Model's form: log 2; log 11; log 24. -/
def Obligations.ActuatingActionsWaitInTheDelayList : Prop :=
  ∀ (a : RowAction) (f : RowFrame) (s : State) (bay : Option Bay),
    (TakenFromGateway 2 f s → readAction f.payload = some bay → s.cfg.actionMask.getLsbD a.bit = false →
      exec (actionCommand a f) s = .next (heard s)) ∧
    (a ∈ actuating → TakenAction a bay f s → s.strap.toNat * s.cfg.actionStaggerMs ≠ 0 →
      ∀ (arg : Option Bay) (others : List DelayRecord), arg = (if a = .restart then none else bay) →
        others = s.delays.filter (fun r => !(r.action == a && r.bay == arg)) →
        (others.length < 4 → exec (actionCommand a f) s =
          .next (State.closingCheck { heard s with
            delays := others ++ [⟨a, arg, s.strap.toNat * s.cfg.actionStaggerMs⟩] })) ∧
        (4 ≤ others.length → ∃ t, exec (actionCommand a f) s = .next t ∧ t.delays = s.delays ∧ t.bays = s.bays ∧
          (s.masked .post = false → (Source.post, Code.actionDropped) ∈ attentionPairs t))) ∧
    (a ∈ actuating → TakenAction a bay f s → s.strap.toNat * s.cfg.actionStaggerMs = 0 →
      exec (actionCommand a f) s = exec .actionDelayExpiry { heard s with
        delays := ⟨a, if a = .restart then none else bay, 0⟩ :: s.delays })

/-- R171, R179: at the expiry of its delay a record leaves the list; FAULT-CLEAR, SERVICE-OPEN, SERVICE-CLOSE and RESTART out
of MAINTENANCE have no effect. RESTART with an attempt in flight sets restart due; with none it is carried out: the claim
knowledge and work in hand are gone, the stamp, configuration and strap address are kept, the post is JOINING with its
fitted bays in CALIBRATING, and a RESET-MARK is handed to the store. R50: a restart that is due is carried out so in the event
that ends the attempt in flight: its arbitration loss, its veto, the eighth too, or its echo, whatever frame it sends. The
echo of a LOG-DATA may move the store first; what it does there stands in another statement.
Model's form: log 11; log 31. -/
def Obligations.DelayExpiryAndRestart : Prop :=
  (∀ (s : State) (r : DelayRecord) (rest : List DelayRecord), s.delays = r :: rest →
    ((r.action = .faultClear ∨ r.action = .serviceOpen ∨ r.action = .serviceClose ∨ r.action = .restart) →
      s.mode ≠ .maintenance → exec .actionDelayExpiry s = .next (State.closingCheck { s with delays := rest })) ∧
    (r.action = .restart → s.mode = .maintenance →
      (s.rlc.attempt ≠ none → exec .actionDelayExpiry s = .next { s with delays := rest, restartDue := true }) ∧
      (s.rlc.attempt = none →
        ∃ t, exec .actionDelayExpiry s = .next t ∧ Restarted s t ∧ Recorded .resetMark s t.store))) ∧
  ∀ (s : State) (c : Instr), s.restartDue = true → EndsAttempt c s →
    ∃ t, exec c s = .next t ∧ Restarted s t ∧ (c ≠ .logDataEcho → Recorded .resetMark s t.store)

/-- R119, R122, R126, R130 to R132, R171: what FAULT-CLEAR, SERVICE-OPEN and SERVICE-CLOSE in MAINTENANCE, and RELATCH-OPEN and
PATROL-NOW in JOINING, SERVICE, HOLD, CLOSING and MAINTENANCE, do at the expiry of their delay to a fitted bay they name that
meets their conditions. A SERVICE-CLOSE without presence leaves the bay EMPTY, and with its seat asserted and fewer than 2
records pending it begins docking at once. That the delay at the head of the list is the one that expires is the model's
inference (log 31), and that a SERVICE-CLOSE asks for its run during a tag read too is its choice (log 14). -/
def Obligations.ActionsAppliedToABay : Prop :=
  ∀ (s : State) (a : RowAction) (b : Bay) (n : Nat) (rest : List DelayRecord), s.delays = ⟨a, some b, n⟩ :: rest →
    b.val < s.cfg.baysFitted → s.wantsDrive b = false →
    (a = .faultClear → s.mode = .maintenance → (s.bay b).state = .faulted →
      ∃ t, exec .actionDelayExpiry s = .next t ∧ t.bay b = { calibratingFrom (s.bay b) with fault := none } ∧
        Asks b (.role .home) t ∧ Told (.bayLight b .shut) t ∧ t.store = s.store) ∧
    (a = .serviceOpen → s.mode = .maintenance → (s.bay b).state = .docked ∨ (s.bay b).state = .empty →
      ∃ t, exec .actionDelayExpiry s = .next t ∧ t.bay b = { s.bay b with state := .serviceOpen } ∧
        Asks b (.role .serviceOpen) t ∧ t.store = s.store) ∧
    (a = .serviceClose → s.mode = .maintenance → (s.bay b).state = .serviceOpen →
      ((s.input b).presence = true → ∃ t, exec .actionDelayExpiry s = .next t ∧ t.bays = s.bays ∧
        Asks b (.role .serviceClose) t) ∧
      ((s.input b).presence = false → (s.input b).seat = false ∨ 2 ≤ (s.pendingOf b).length →
        ∃ t, exec .actionDelayExpiry s = .next t ∧
          t.bay b = { s.bay b with state := .empty, bikeId := none, bikeClass := none } ∧ t.drive = s.drive ∧
          t.store = s.store) ∧
      ((s.input b).presence = false → (s.input b).seat = true → (s.pendingOf b).length < 2 →
        ∃ t, exec .actionDelayExpiry s = .next t ∧
          t.bay b = { s.bay b with state := .docking, bikeId := none, bikeClass := none } ∧ Asks b (.role .relatch) t ∧
          t.store = s.store)) ∧
    (a = .relatchOpen → s.mode.working = true → (s.bay b).state = .opened →
      ∃ t, exec .actionDelayExpiry s = .next t ∧
        t.bay b = { s.bay b with state := .relatching, cause := some .relatchAction, take := none } ∧
        Asks b (.role .relatch) t ∧ Told (.bayLight b .shut) t ∧ t.table = s.table ∧ t.store = s.store) ∧
    (a = .patrolNow → s.mode.working = true → (s.bay b).state = .docked → s.pendingOf b = [] →
      ∃ t, exec .actionDelayExpiry s = .next t ∧ t.bays = s.bays ∧ t.patrol = s.patrol ∧ Asks b (.role .patrol) t)

/-! ### Timers -/

/-- R12: while the stamp state is SET or STALE each expiry of the second interval advances the stamp by one, with the sweep,
and starts the next interval; at 4294967295 the stamp stays and no sweep is run. No command but a power-on reset lets the
stamp decrease: the law of R11's table, kept by every command, is the premise. -/
def Obligations.SecondsAdvanceTheStampAndItNeverDecreases : Prop :=
  (∀ (s : State) (a : Stamp), StampLaw s → s.ssu.state ≠ .unset → s.ssu.stamp = some a →
    (a.toNat < 4294967295 → exec .secondIntervalExpiry s = .next { s with
      ssu := { s.ssu with stamp := some (a + 1), second := some 1000 }
      table := s.table.map (fun slot => slot.filter (fun e =>
        !(e.status.evictable && e.expiry.toNat < (a + 1).toNat))) }) ∧
    (a.toNat = 4294967295 →
      exec .secondIntervalExpiry s = .next { s with ssu := { s.ssu with second := some 1000 } })) ∧
  ∀ (c : Instr) (s t : State), StampLaw s → exec c s = .next t → StampLaw t ∧ (¬isReset c → StampKept s t)

/-- R14: at the expiry of the beacon-loss timer the state becomes STALE, the timer stops, the stamp and its interval are kept,
and STAMP STALE is recorded on STAMP in a mode in which the queue records, when that source is not masked. R79: at the first
idle gap of JOINING the JOIN is queued, the window starts and the unit is ANNOUNCING. R91, R92: at the window's expiry the post
enters SERVICE with the joiner's side at its reset values and COLD JOIN is recorded on POST, when that source is not masked;
a JOIN that waits leaves the protocol queue at once, and one in flight, marked as removed, at the end of its attempt (R45).
R83: at the stagger's expiry a dump begins with cursor, sequence and counts at 0.
Model's form: log 2. -/
def Obligations.BeaconLossAndJoinTimers : Prop :=
  (∀ (s : State), s.ssu.beaconLoss ≠ none →
    ∃ t, exec .beaconLossExpiry s = .next t ∧ t.ssu = { s.ssu with state := .stale, beaconLoss := none } ∧
      t.table = s.table ∧ t.bays = s.bays ∧ t.tap = s.tap ∧
      (s.mode.working = true → s.masked .stamp = false → (Source.stamp, Code.stampStale) ∈ attentionPairs t)) ∧
  ∀ (s : State),
    (s.mode = .joining → s.ju.join = .gapWait → s.rlc.protocol.length < 12 →
      ∃ t, exec .joinAtFirstIdleGap s = .next t ∧ (⟨.join, 0⟩ : Queued) ∈ t.rlc.protocol ∧ t.mode = .joining ∧
        t.ju = { s.ju with join := .announcing, window := some (1000 * s.cfg.joinWindowS) } ∧ t.table = s.table) ∧
    (s.mode = .joining → s.ju.window ≠ none →
      ∃ t, exec .joinWindowExpiry s = .next t ∧ t.mode = .service ∧ t.table = s.table ∧ t.ssu = s.ssu ∧ t.ju = { s.ju with
        window := none, tracked := none, framesCounted := 0, entriesCounted := 0, restartUsed := false, join := .off } ∧
        (s.masked .post = false → (Source.post, Code.coldJoin) ∈ attentionPairs t) ∧
        (s.rlc.attempt = none → Without (· = .join) s.rlc.protocol t.rlc.protocol ∧ t.rlc.attempt = none) ∧
        ∀ (a : Attempt) (q : Queued), s.rlc.attempt = some a → (s.side a.side)[a.place]? = some q →
          (q.frame = .join → a.side = .protocol → (∀ y ∈ s.rlc.protocol.take a.place, y.frame ≠ .join) →
            t.rlc.protocol = s.rlc.protocol ∧ t.rlc.attempt = some { a with removed := true }) ∧
          (q.frame ≠ .join → Without (· = .join) s.rlc.protocol t.rlc.protocol ∧
            ∃ i, t.rlc.attempt = some { a with place := i } ∧ (t.side a.side)[i]? = some q)) ∧
    (s.ju.dump = .stagger → s.rlc.protocol.length < 12 →
      ∃ t, exec .dumpStaggerExpiry s = .next t ∧ (⟨.dump, 0⟩ : Queued) ∈ t.rlc.protocol ∧ t.table = s.table ∧
        t.ju = { s.ju with
          dump := .dumping, stagger := none, owed := false, cursor := .index 0, nextSeq := 0, framesSent := 0,
          entriesSent := 0 })

/-- R63, R104, R106, R123, R124: at settle expiry the entry becomes OWN-HELD and the timer stops. The chosen bay, still
RESERVED, takes the claim: it enters RELEASING with it and asks for its RELEASE run, the entry and the rotation pointer name
it, and the phase is RELEASE-START. With the chosen bay lost the first later candidate that is eligible takes it so; with none
left the entry is removed, LAPSE with NO BAY is queued where the protocol queue has room, the post-level record is handed to
the store, and the verdict is BAY FAULT. -/
def Obligations.SettleExpiryHandsOverOrEndsTheClaim : Prop :=
  ∀ (s : State) (tok : Token) (b : Bay) (n : Nat) (e : Entry), s.ce.settle = some ⟨n, tok.id⟩ →
    s.entry tok.id = some e → e.status = .ownSettling → s.tap.phase = .settling → s.tap.token = some tok →
    s.tap.chosen = some b →
    ((s.bay b).state = .reserved → s.wantsDrive b = false →
      ∃ t, exec .settleExpiry s = .next t ∧ t.ce = { s.ce with settle := none } ∧
        t.entry tok.id = some { e with status := .ownHeld, bay := some b } ∧
        (∀ u, u ≠ tok.id → t.entry u = s.entry u) ∧
        t.bay b = { s.bay b with state := .releasing, claim := some tok.id } ∧ Asks b (.role .release) t ∧
        t.tap = { s.tap with rotation := b, phase := .releaseStart } ∧ t.store = s.store ∧ t.rlc = s.rlc) ∧
    ((s.bay b).state ≠ .reserved → ∀ (j : Nat) (d : Bay), NextCandidate s tok j d →
      ∃ t, exec .settleExpiry s = .next t ∧ t.ce = { s.ce with settle := none } ∧
        t.entry tok.id = some { e with status := .ownHeld, bay := some d } ∧
        (∀ u, u ≠ tok.id → t.entry u = s.entry u) ∧
        t.bay d = { s.bay d with state := .releasing, claim := some tok.id } ∧ (∀ c, c ≠ d → t.bay c = s.bay c) ∧
        Asks d (.role .release) t ∧
        t.tap = { s.tap with position := j, chosen := some d, rotation := d, phase := .releaseStart } ∧ t.store = s.store) ∧
    ((s.bay b).state ≠ .reserved → (∀ (j : Nat) (d : Bay), ¬NextCandidate s tok j d) → TableLaw s →
      ∃ t, exec .settleExpiry s = .next t ∧ t.ce = { s.ce with settle := none } ∧ t.entry tok.id = none ∧
        (∀ u, u ≠ tok.id → t.entry u = s.entry u) ∧
        (s.rlc.protocol.length < 12 → (⟨.lapse tok.id .noBay, 0⟩ : Queued) ∈ t.rlc.protocol) ∧
        Recorded (.noBay tok.id) s t.store ∧ t.tap = { s.tap with phase := .verdict, verdict := some .bayFault } ∧
        Told (.verdict .bayFault .transaction) t ∧ t.bays = s.bays)

/-- R126: at the expiry of its take timer an OPEN bay enters RELATCHING with cause NOT TAKEN and its claim, asks for its
RELATCH run and shows SHUT. R122: at the patrol timer's expiry the timer starts again, unless the interval is 0, and exactly
the fitted bays that are DOCKED with an empty pending list and no drive request ask for a run besides those that had.
Model's form: log 2. -/
def Obligations.TakeAndPatrolTimers : Prop :=
  (∀ (s : State) (b : Bay), (s.bay b).state = .opened → (s.bay b).take ≠ none → s.wantsDrive b = false →
    ∃ t, exec (.takeTimerExpiry b) s = .next t ∧
      t.bay b = { s.bay b with state := .relatching, cause := some .notTaken, take := none } ∧
      Asks b (.role .relatch) t ∧ Told (.bayLight b .shut) t ∧ t.table = s.table ∧ t.store = s.store ∧ t.rlc = s.rlc) ∧
  ∀ (s : State), s.patrol ≠ none →
    ∃ t, exec .patrolTimerExpiry s = .next t ∧ t.bays = s.bays ∧
      t.patrol = (if s.cfg.patrolMin = 0 then none else some (60000 * s.cfg.patrolMin)) ∧
      ∀ b : Bay, (b.val < s.cfg.baysFitted ∧ (s.bay b).state = .docked ∧ s.pendingOf b = [] ∧ s.wantsDrive b = false →
          Asks b (.role .patrol) t) ∧
        (t.wantsDrive b = true → s.wantsDrive b = true ∨
          b.val < s.cfg.baysFitted ∧ (s.bay b).state = .docked ∧ s.pendingOf b = [])

/-! ### The tap link -/

/-- R94, R96, R98: a start marker out of STARTING begins a transaction in IDLE, begins the PRESENT of one in INTAKE afresh,
and begins a second presentation in every other phase, with the intake timer at 250 ms; in STARTING it does nothing. A PRESENT
found unreadable by its length byte, by the intake timer, or, once it has fully arrived, by its link check or message type
(R183), is collected no more. The transaction's is answered MALFORMED, or
POST CLOSED with the closed mark set; a second presentation's is answered MALFORMED while fewer than 3 such answers wait, and
otherwise not at all.
Model's form: log 2. -/
def Obligations.StartMarkersAndUnreadablePresents : Prop :=
  (∀ (s : State),
    (s.mode = .starting → exec .startMarker s = .next s) ∧
    (s.mode ≠ .starting →
      (s.tap.phase = .idle → exec .startMarker s = .next { s with tap := { s.tap with
        phase := .intake, collecting := some .transaction, intake := some 250, kept := none } }) ∧
      (s.tap.phase = .intake → exec .startMarker s = .next { s with tap := { s.tap with
        collecting := some .transaction, intake := some 250 } }) ∧
      (s.tap.phase ≠ .idle → s.tap.phase ≠ .intake → exec .startMarker s = .next { s with tap := { s.tap with
        collecting := some .second, intake := some 250 } }))) ∧
  ∀ (s : State) (c : Instr) (len : Byte) (bytes : List Byte),
    (c = .wrongLengthByte len ∧ len ≠ 31 ∨ c = .intakeTimerExpiry ∧ s.tap.intake ≠ none ∨
      c = .presentFullyArrived bytes ∧ readPresent bytes = none) →
    (s.tap.collecting = some .transaction → ∀ v : Verdict, v = (if s.tap.closed = true then .postClosed else .malformed) →
      ∃ t, exec c s = .next t ∧ t.tap = { uncollected s.tap with phase := .verdict, verdict := some v } ∧
        Told (.verdict v .transaction) t ∧ t.tcu = s.tcu ∧ t.table = s.table ∧ t.bays = s.bays) ∧
    (s.tap.collecting = some .second →
      ((s.link.list.filter TapMessage.answersSecond).length < 3 →
        ∃ l, exec c s = .next { s with tap := uncollected s.tap, link := l } ∧
          (TapMessage.verdict .malformed .second ∈ l.list ∨ l.sending = some (.verdict .malformed .second))) ∧
      (3 ≤ (s.link.list.filter TapMessage.answersSecond).length → exec c s = .next { s with tap := uncollected s.tap }))

/-- R3, R7, R96, R97: a readable PRESENT of the transaction is answered POST CLOSED with the closed mark set or in
CONFIG-FAULT; otherwise the first intake test that fails gives the verdict, and a token that passes all seven goes to the
Token Check Unit in CHECKING, with nothing else changed. That a token refused is not kept in the transaction's record is the
model's inference (log 18). R98: a readable second presentation with the token ID the transaction holds, or, with the phase back
in IDLE, with the token ID kept (R109), is ignored; with another, or where none is held or kept, it is answered BUSY while
fewer than 3 such answers wait. The transaction goes on untouched. -/
def Obligations.ReadablePresents : Prop :=
  (∀ (s : State) (bytes : List Byte) (tok : Token), readPresent bytes = some tok → s.tap.collecting = some .transaction →
    (s.tap.closed = true ∨ s.mode = .configFault →
      ∃ t, exec (.presentFullyArrived bytes) s = .next t ∧ Told (.verdict .postClosed .transaction) t ∧
        t.tap = { uncollected s.tap with phase := .verdict, verdict := some .postClosed } ∧ t.tcu = s.tcu) ∧
    (s.tap.closed = false → s.mode ≠ .configFault →
      (∀ v, intakeAnswer s tok = some v →
        ∃ t, exec (.presentFullyArrived bytes) s = .next t ∧ Told (.verdict v .transaction) t ∧
          t.tap = { uncollected s.tap with phase := .verdict, verdict := some v } ∧ t.tcu = s.tcu ∧ t.table = s.table) ∧
      (intakeAnswer s tok = none → exec (.presentFullyArrived bytes) s = .next { s with
        tcu := ⟨true, some tok⟩, tap := { uncollected s.tap with phase := .checking, token := some tok } }))) ∧
  ∀ (s : State) (bytes : List Byte) (tok : Token) (known : Option TokenId), readPresent bytes = some tok →
    s.tap.collecting = some .second →
    known = (if s.tap.phase = .idle then s.tap.kept else s.tap.token.map Token.id) →
    (known = some tok.id →
      exec (.presentFullyArrived bytes) s = .next { s with tap := uncollected s.tap }) ∧
    (known ≠ some tok.id →
      ((s.link.list.filter TapMessage.answersSecond).length < 3 →
        ∃ l, exec (.presentFullyArrived bytes) s = .next { s with tap := uncollected s.tap, link := l } ∧
          (TapMessage.verdict .busy .second ∈ l.list ∨ l.sending = some (.verdict .busy .second))) ∧
      (3 ≤ (s.link.list.filter TapMessage.answersSecond).length →
        exec (.presentFullyArrived bytes) s = .next { s with tap := uncollected s.tap }))

/-- R9, R99, R101: at the completion of a check the unit is idle and its copy empty; a mismatch gives BAD CHECK; a match gives
REVOKED for a REVOKED entry, SPENT for one in another status, and with no entry NO BIKE where no bay is eligible. Nothing
holds of the keyed code but whether it matches (log 1). -/
def Obligations.TokenChecksThatRefuse : Prop :=
  ∀ (s : State) (tok : Token) (v : Verdict), s.tcu = ⟨true, some tok⟩ → s.tap.phase = .checking →
    (Config.keyedCode s.cfg.siteKey tok.checkedBits ≠ tok.check ∧ v = .badCheck ∨
      Config.keyedCode s.cfg.siteKey tok.checkedBits = tok.check ∧
        ((∃ e, s.entry tok.id = some e ∧ v = (if e.status = .revoked then .revoked else .spent)) ∨
          s.entry tok.id = none ∧ (∀ b, ¬CanServe s tok b) ∧ v = .noBike)) →
    ∃ t, exec .tokenCheckCompletion s = .next t ∧ t.tcu = ⟨false, none⟩ ∧
      t.tap = { s.tap with phase := .verdict, verdict := some v } ∧ Told (.verdict v .transaction) t ∧
      t.table = s.table ∧ t.bays = s.bays ∧ t.rlc = s.rlc ∧ t.store = s.store

/-- R59, R100 to R102, R123: a match with no entry reserves the first eligible bay in rotation order. Where the protocol
queue holds fewer than 12 frames and no LAPSE, the OWN-PENDING entry takes the lowest free index (R19) or, in a full table,
that of the evictable entry of earliest expiry with TABLE PRESSURE recorded (R22), the CLAIM is queued with its fields, and
the phase is CLAIMING; otherwise the bay is DOCKED again, the table as it was, and the verdict BUSY. -/
def Obligations.TokenChecksThatStartAClaim : Prop :=
  ∀ (s : State) (tok : Token) (b : Bay) (j : Bay) (i : Nat) (x : Stamp), s.tcu = ⟨true, some tok⟩ →
    s.tap.phase = .checking → Config.keyedCode s.cfg.siteKey tok.checkedBits = tok.check → s.entry tok.id = none →
    b = s.tap.rotation + 1 + j → CanServe s tok b → (∀ k : Bay, k.val < j.val → ¬CanServe s tok (s.tap.rotation + 1 + k)) →
    (s.table.findIdx? Option.isNone = some i ∨ Evicts s.table i) → x.toNat = min 4294967295 (tok.notAfter.toNat + s.cfg.skewS) →
    (s.rlc.protocol.length < 12 → (∀ q ∈ s.rlc.protocol, q.frame.kind ≠ .lapse) →
      ∃ t, exec .tokenCheckCompletion s = .next t ∧ t.tcu = ⟨false, none⟩ ∧ t.tap.phase = .claiming ∧
        t.tap.chosen = some b ∧ t.tap.token = s.tap.token ∧ t.tap.rotation = s.tap.rotation ∧
        t.bay b = { s.bay b with state := .reserved } ∧ (∀ c, c ≠ b → t.bay c = s.bay c) ∧
        t.table = s.table.set i (some ⟨tok.id, .ownPending, some s.strap, some b, x, false⟩) ∧
        (⟨.claim tok.id b x, 0⟩ : Queued) ∈ t.rlc.protocol ∧
        (s.table.findIdx? Option.isNone = some i → t.rlc.service = s.rlc.service ∧ t.aq = s.aq) ∧
        (Evicts s.table i → s.mode.working = true → s.masked .table = false →
          (Source.table, Code.tablePressure) ∈ attentionPairs t)) ∧
    ((12 ≤ s.rlc.protocol.length ∨ ∃ q ∈ s.rlc.protocol, q.frame.kind = .lapse) →
      ∃ t, exec .tokenCheckCompletion s = .next t ∧ t.tcu = ⟨false, none⟩ ∧ t.tap.phase = .verdict ∧
        t.tap.verdict = some .busy ∧ t.bays = s.bays ∧ t.table = s.table ∧ t.rlc = s.rlc)

/-- R93, R95, R109: when a message has been sent the transmitter takes the oldest one waiting; the transaction's VERDICT
returns the record to IDLE with the rotation pointer kept, and the token ID kept for a second presentation still being
collected. R178: in CLOSING that ends the stay where no fitted bay is in one of the six busy states.
Model's form: log 8; log 11. -/
def Obligations.MessagesSent : Prop :=
  ∀ (s : State) (v : Verdict) (b : Bay) (i : Indication),
    (s.link.sending = some (.verdict v .transaction) → exec .verdictSent s = .next (State.closingCheck { s with
      link := ⟨s.link.list.tail, s.link.list.head?⟩
      tap := { TapRecord.reset with
        rotation := s.tap.rotation, intake := s.tap.intake, collecting := s.tap.collecting
        kept := if s.tap.collecting = some .second then s.tap.token.map Token.id else none } })) ∧
    (s.link.sending = some (.verdict v .transaction) → s.mode = .closing →
      ∃ t, exec .verdictSent s = .next t ∧
        ((∀ c : Bay, c.val < s.cfg.baysFitted → (s.bay c).state.busy = false) → t.mode = .maintenance) ∧
        ((∃ c : Bay, c.val < s.cfg.baysFitted ∧ (s.bay c).state.busy = true) → t.mode = .closing)) ∧
    (s.link.sending = some (.verdict v .second) →
      exec .verdictSent s = .next { s with link := ⟨s.link.list.tail, s.link.list.head?⟩ }) ∧
    (s.link.sending = some (.bayLight b i) →
      exec .bayLightSent s = .next { s with link := ⟨s.link.list.tail, s.link.list.head?⟩ })

/-! ### Bays -/

/-- R112, R115: presence, home and clear rising, clear and the driver-fault input falling, and a change of the COLD input
change the level the post sees, and nothing else. That a level changes so in STARTING and CONFIG-FAULT too is the model's choice
(log 7). -/
def Obligations.InputChangesWithoutAnAnswer : Prop :=
  ∀ (s : State) (b : Bay) (v : Bool),
    exec (.presenceRising b) s = .next { s with inputs := s.inputs.set b { s.inputs.get b with presence := true } } ∧
    exec (.homeRising b) s = .next { s with inputs := s.inputs.set b { s.inputs.get b with home := true } } ∧
    exec (.clearRising b) s = .next { s with inputs := s.inputs.set b { s.inputs.get b with clear := true } } ∧
    exec (.clearFalling b) s = .next { s with inputs := s.inputs.set b { s.inputs.get b with clear := false } } ∧
    exec (.driverFaultFalling b) s =
      .next { s with inputs := s.inputs.set b { s.inputs.get b with driverFault := false } } ∧
    exec (.coldInputChange v) s = .next { s with cold := v }

/-- R125, R128, R149: presence falling at an OPEN bay is a withdrawal, and at a RELATCHING bay a late withdrawal: the START,
with its late-take mark where it is late, is handed to the store, the entry becomes OWN-TAKEN, and the claim, bike ID and class
are absent. At an OPEN bay the timer stops, SHUT is shown and the bay enters EMPTY; at a RELATCHING one the cause is absent and,
with the RELATCH request still waiting, the request is withdrawn and the bay enters EMPTY. At the entry to EMPTY docking begins
with the seat asserted and fewer than 2 records pending (R119). With the RELATCH run running, short of a DWELL, the run is asked
to stop and the bay is REOPENING with follow-on RELEASE. R178: in CLOSING a withdrawal that leaves the post idle takes it to
MAINTENANCE. -/
def Obligations.Withdrawals : Prop :=
  ∀ (s : State) (b : Bay) (tok : TokenId) (e : Entry) (late : Bool) (x : BayRecord), s.mode.working = true →
    (s.input b).presence = true → (s.bay b).tagRead = none → (s.bay b).claim = some tok → s.entry tok = some e →
    e.status = .ownHeld → x = { s.bay b with claim := none, bikeId := none, bikeClass := none } →
    (late = false ∧ (s.bay b).state = .opened ∨ late = true ∧ (s.bay b).state = .relatching) →
    (∀ r, s.run = some r → r.bay = b → r.dwelling = false) →
    ∃ t, exec (.presenceFalling b) s = .next t ∧ t.entry tok = some { e with status := .ownTaken } ∧
      (∀ u, u ≠ tok → t.entry u = s.entry u) ∧ t.rlc.protocol = s.rlc.protocol ∧ t.tap = s.tap ∧
      Recorded (.start b tok (s.bay b).bikeId (s.bay b).bikeClass late) s t.store ∧ (∀ d, d ≠ b → t.bay d = s.bay d) ∧
      (∀ z : BayRecord,
        (late = false ∧ s.wantsDrive b = false ∧ z = { x with take := none } ∨
          late = true ∧ s.requestWaits b = true ∧ s.runsAt b = false ∧ z = { x with cause := none }) →
        (late = false → Told (.bayLight b .shut) t) ∧
        ((s.input b).seat = false ∨ 2 ≤ (t.pendingOf b).length →
          t.bay b = { z with state := .empty } ∧ t.wantsDrive b = false ∧
          (s.mode = .closing → s.tap.phase = .idle →
            (∀ c : Bay, c ≠ b → c.val < s.cfg.baysFitted → (s.bay c).state.busy = false) → t.mode = .maintenance)) ∧
        ((s.input b).seat = true → (t.pendingOf b).length < 2 →
          t.bay b = { z with state := .docking } ∧ Asks b (.role .relatch) t)) ∧
      (∀ r, late = true → s.run = some r → r.bay = b →
        t.bay b = { x with state := .reopening, cause := none, followOn := some .release } ∧
        t.run = some { r with stop := true } ∧ t.drive = s.drive)

/-- R118, R121, R132: a DOCKED or RESERVED bay with no run and no tag read is FAULTED by presence or seat falling (FORCED
REMOVAL), home falling (LATCH FAIL) or the driver-fault input rising (DRIVER FAULT), and a bay whose tag is read, in
CALIBRATING, DOCKING or SERVICE-OPEN, by presence or seat falling (FORCED REMOVAL), which ends the read: its bike ID and class
are absent, its request is withdrawn, a further SERVICE-CLOSE request too (log 14), FAULT is shown, the code is recorded on its
source when that is not masked, and no record is written. The same falls while a run of the bay runs, a further SERVICE-CLOSE
run in a tag read among them (log 39), stand in another statement. -/
def Obligations.LossOfALockedBicycle : Prop :=
  ∀ (s : State) (b : Bay) (c : Instr) (code : FaultCode), s.mode.working = true → s.runsAt b = false →
    ((s.bay b).tagRead = none ∧ ((s.bay b).state = .docked ∨ (s.bay b).state = .reserved) ∨
      (∃ n, (s.bay b).tagRead = some n) ∧ code = .forcedRemoval ∧
        ((s.bay b).state = .calibrating ∨ (s.bay b).state = .docking ∨ (s.bay b).state = .serviceOpen)) →
    (c = .presenceFalling b ∧ code = .forcedRemoval ∧ (s.input b).presence = true ∨
      c = .seatFalling b ∧ code = .forcedRemoval ∧ (s.input b).seat = true ∨
      c = .homeFalling b ∧ code = .latchFail ∧ (s.input b).home = true ∨
      c = .driverFaultRising b ∧ code = .driverFault ∧ (s.input b).driverFault = false) →
    ∃ t, exec c s = .next t ∧ Faulted b code { s.bay b with bikeId := none, bikeClass := none } s t ∧ OnlyBay b s t ∧
      t.requestWaits b = false ∧ t.run = s.run

/-- R119: the seat rising at an EMPTY bay with fewer than 2 records pending begins docking, and with 2 changes nothing but
the level. R120: the seat falling in DOCKING returns a bay whose request waits to EMPTY and takes one whose run is running,
short of a DWELL, to CALIBRATING with follow-on HOME and the run asked to stop.
Model's form: log 11. -/
def Obligations.SeatChanges : Prop :=
  ∀ (s : State) (b : Bay), s.mode.working = true →
    ((s.input b).seat = false → (s.bay b).state = .empty → s.wantsDrive b = false →
      ((s.pendingOf b).length < 2 → ∃ t, exec (.seatRising b) s = .next t ∧
        t.bay b = { s.bay b with state := .docking } ∧ Asks b (.role .relatch) t ∧ t.store = s.store ∧ t.table = s.table) ∧
      (2 ≤ (s.pendingOf b).length → exec (.seatRising b) s = .next (State.closingCheck { s with
        inputs := s.inputs.set b { s.inputs.get b with seat := true } }))) ∧
    ((s.input b).seat = true → (s.bay b).state = .docking → (s.bay b).tagRead = none →
      (s.runsAt b = false → s.requestWaits b = true → ∃ t, exec (.seatFalling b) s = .next t ∧
        t.bay b = { s.bay b with state := .empty } ∧ t.wantsDrive b = false ∧ t.store = s.store) ∧
      (∀ r, s.run = some r → r.bay = b → r.dwelling = false → ∃ t, exec (.seatFalling b) s = .next t ∧
        (t.bay b).state = .calibrating ∧ (t.bay b).followOn = some .home ∧ t.run = some { r with stop := true } ∧
        t.drive = s.drive ∧ t.store = s.store))

/-- R184: an attempt is read exactly when the tag gives 6 bytes, the last of them the exclusive-or of the first five with
0x5A, the bike ID is not 0 and the class does not exceed 3; the ID and class are then those bytes. What a bay in its first
or second attempt makes of the answer follows from its bytes alone: a read attempt in CALIBRATING leaves it DOCKED with
them, an unread one begins the next, and the other bays and the store are as they were. -/
def Obligations.TagAnswersAreJudgedOnTheirBytes : Prop :=
  (∀ (i0 i1 i2 i3 c k : Byte),
    readTag [i0, i1, i2, i3, c, k] =
      if k = i0 ^^^ i1 ^^^ i2 ^^^ i3 ^^^ c ^^^ 0x5A ∧ (i0 ++ i1 ++ i2 ++ i3 : BitVec 32) ≠ 0 ∧ c.toNat ≤ 3 then
        some (i0 ++ i1 ++ i2 ++ i3, c.setWidth 2)
      else none) ∧
  (∀ answer : List Byte, answer.length < 6 → readTag answer = none) ∧
  ∀ (s : State) (b : Bay) (n : Nat) (answer : List Byte), (s.bay b).tagRead = some n → n < 3 →
    (readTag answer = none → ∃ t, exec (.tagReadAttemptCompletion b answer) s = .next t ∧
      t.bay b = { s.bay b with tagRead := some (n + 1) } ∧ (∀ c, c ≠ b → t.bay c = s.bay c) ∧ t.store = s.store) ∧
    ∀ (id : BikeId) (cls : BikeClass), readTag answer = some (id, cls) → (s.bay b).state = .calibrating →
      ∃ t, exec (.tagReadAttemptCompletion b answer) s = .next t ∧ (t.bay b).state = .docked ∧
        (t.bay b).bikeId = some id ∧ (t.bay b).bikeClass = some cls ∧ (t.bay b).tagRead = none ∧
        (∀ c, c ≠ b → t.bay c = s.bay c) ∧ t.store = s.store

/-- R117, R118, R120, R131: a tag read ends at its first read attempt, with the bike ID and class read, and at its third unread
one, with both absent and TAG UNREAD recorded on the bay's source, when that is not masked. The bay is then DOCKED: in
CALIBRATING and SERVICE-OPEN with no record, and in DOCKING with its RETURN handed to the store; where the RELATCH run of the
docking failed the RETURN has its latch-failed mark and the bay is FAULTED, with the code shown, and recorded, but for a DRIVER
FAULT, which the failing step has recorded. That the bay FAULTED so keeps the bike ID and class read is the model's inference
(log 15). That a SERVICE-OPEN bay with a further SERVICE-CLOSE run in hand stays so until that run ends is its choice (log 14).
Model's form: log 13. -/
def Obligations.TagReadsEnd : Prop :=
  ∀ (s : State) (b : Bay) (answer : List Byte) (n : Nat) (x : BayRecord), s.mode.working = true →
    (s.bay b).tagRead = some n →
    ((∃ (id : BikeId) (cls : BikeClass), readTag answer = some (id, cls) ∧
        x = { s.bay b with bikeId := some id, bikeClass := some cls, tagRead := none, failedDock := none }) ∨
      readTag answer = none ∧ n = 3 ∧
        x = { s.bay b with bikeId := none, bikeClass := none, tagRead := none, failedDock := none }) →
    ∃ t, exec (.tagReadAttemptCompletion b answer) s = .next t ∧ (∀ d, d ≠ b → t.bay d = s.bay d) ∧ t.table = s.table ∧
      t.tap = s.tap ∧ t.run = s.run ∧
      (readTag answer = none → s.masked (.bay b) = false → (Source.bay b, Code.tagUnread) ∈ attentionPairs t) ∧
      ((s.bay b).state = .calibrating → t.bay b = { x with state := .docked } ∧ t.store = s.store) ∧
      ((s.bay b).state = .serviceOpen → t.store = s.store ∧
        (s.wantsDrive b = false → t.bay b = { x with state := .docked }) ∧
        (s.wantsDrive b = true → t.bay b = x ∧ t.drive = s.drive)) ∧
      ((s.bay b).state = .docking →
        Recorded (.returned b x.bikeId x.bikeClass (s.bay b).failedDock.isSome) s t.store ∧
        ((s.bay b).failedDock = none → t.bay b = { x with state := .docked }) ∧
        ∀ code : FaultCode, (s.bay b).failedDock = some code →
          t.bay b = { x with state := .faulted, fault := some code, take := none, claim := none, cause := none } ∧
          Told (.bayLight b .fault) t ∧
          (code ≠ .driverFault → s.masked (.bay b) = false → (Source.bay b, code.code) ∈ attentionPairs t))

/-! ### Runs -/

/-- R135 to R137, R140, R142, R143: what the boundaries of a run do, the driver-fault input not asserted and no stop asked for.
The end of the pulse begins the first step, and the end of a step the next. A step at its start: PLAIN and STOP-WHEN begin
their action; UNTIL is passed over where its condition holds already, and STOP-WHEN on SENSE where it does not; EDGE seeks low
where its sensor is asserted and high where not. A bolt step or wait counts, and an OUT bolt step for the anchor too. A PLAIN
or STOP-WHEN move short of its count goes on, as an UNTIL or EDGE step does short of its limit that finds nothing; the reading
that finds low moves EDGE to seek high, and the edge found is measured in OUT bolt steps since the anchor. UNTIL on home
asserted with IN 1 is the anchor. A STOP-WHEN condition that holds, and the end of the last step, end the run in SUCCESS: here
a PATROL run of a DOCKED bay, which stays as it is while the drive goes on.
Model's form: log 11. -/
def Obligations.BoundariesOfARun : Prop :=
  ∀ (s : State) (r : Run) (st nx : Step) (n : Nat) (sensor : Sensor) (level : Bool) (limit : Nat), s.run = some r →
    (s.input r.bay).driverFault = false → r.stop = false →
    (r.index = 0 → r.steps.head? = some st →
      (st.mode = .plain ∨ st.mode = .stopWhen sensor level → st.action ≠ .sense →
        exec .faultResetPulseEnd s = .next (goingOn s { r with index := 1, made := 0, edge := .seekLow })) ∧
      (st.mode = .edge sensor limit → exec .faultResetPulseEnd s = .next (goingOn s { r with
        index := 1, made := 0, edge := if (s.input r.bay).level sensor = true then .seekLow else .seekHigh })) ∧
      (st.mode = .untilSees sensor level limit → (s.input r.bay).level sensor ≠ level →
        exec .faultResetPulseEnd s = .next (goingOn s { r with index := 1, made := 0, edge := .seekLow })) ∧
      (st.mode = .untilSees sensor level limit → (s.input r.bay).level sensor = level → r.steps[1]? = some nx →
        nx.mode = .plain → nx.action ≠ .sense →
        exec .faultResetPulseEnd s = .next (goingOn s { r with
          index := 2, made := 0, edge := .seekLow
          outs := if sensor = .home ∧ level = true ∧ st.action = .inward 1 then 0 else r.outs })) ∧
      (st.mode = .stopWhen sensor level → st.action = .sense →
        ((s.input r.bay).level sensor = level → Succeeds .faultResetPulseEnd r s) ∧
        ((s.input r.bay).level sensor ≠ level → r.steps[1]? = some nx → nx.mode = .plain → nx.action ≠ .sense →
          exec .faultResetPulseEnd s = .next (goingOn s { r with index := 2, made := 0, edge := .seekLow })))) ∧
    (0 < r.index → r.steps[r.index - 1]? = some st → ∀ (c : Instr) (m : Run) (count : Nat),
      (c = .boltStepEnd ∧ st.action = .out n ∧ m = { r with made := r.made + 1, outs := r.outs + 1 } ∧
          count = (if st.fromClearPoint = true then r.clearPoint.getD n else n) ∨
        c = .boltStepEnd ∧ st.action = .inward n ∧ m = { r with made := r.made + 1 } ∧
          count = (if st.fromClearPoint = true then r.clearPoint.getD n else n) ∨
        c = .senseReading ∧ st.action = .sense ∧ m = { r with made := r.made + 1 } ∧ count = 0 ∨
        c = .dwellEnd ∧ st.action = .dwell n ∧ m = r ∧ count = 0) →
      (st.mode = .plain ∨ st.mode = .stopWhen sensor level → m.made < count → exec c s = .next (goingOn s m)) ∧
      (st.mode = .untilSees sensor level limit → (s.input r.bay).level sensor ≠ level → m.made < limit →
        exec c s = .next (goingOn s m)) ∧
      (st.mode = .edge sensor limit → r.edge = .seekLow ∨ (s.input r.bay).level sensor = false → m.made < limit →
        exec c s = .next (goingOn s { m with
          edge := if (s.input r.bay).level sensor = true then r.edge else .seekHigh })) ∧
      (r.steps[r.index]? = some nx → nx.mode = .plain → nx.action ≠ .sense →
        (count ≤ m.made → st.mode = .plain ∨ st.mode = .stopWhen sensor level ∧ (s.input r.bay).level sensor ≠ level →
          exec c s = .next (goingOn s { m with index := r.index + 1, made := 0, edge := .seekLow })) ∧
        (st.mode = .untilSees sensor level limit → (s.input r.bay).level sensor = level →
          exec c s = .next (goingOn s { m with
            index := r.index + 1, made := 0, edge := .seekLow
            outs := if sensor = .home ∧ level = true ∧ st.action = .inward 1 then 0 else m.outs })) ∧
        (st.mode = .edge sensor limit → r.edge = .seekHigh → (s.input r.bay).level sensor = true →
          exec c s = .next (goingOn s { m with
            index := r.index + 1, made := 0, edge := .seekLow, measured := some m.outs }))) ∧
      (count ≤ m.made →
        st.mode = .stopWhen sensor level ∧ (s.input r.bay).level sensor = level ∨
          r.index = r.steps.length ∧ (st.mode = .plain ∨ st.mode = .untilSees sensor level limit ∧
            (s.input r.bay).level sensor = level) →
        Succeeds c r s))

/-- R114, R117 to R119, R120, R122, R128, R130, R131, R143, R145, R146: a run that ends in SUCCESS, no follow-on named, gives its bay
the clear point it measured, hands the drive on, and does by the bay's state. HOME in CALIBRATING: a tag read with presence and
seat asserted, FAULTED with LATCH FAIL with the seat not asserted, and without presence the opening is asked for. The opening,
and a run in REOPENING: EMPTY, or DOCKING at once with the seat asserted and fewer than 2 records pending. RELATCH in DOCKING and
SERVICE-CLOSE: a tag read with presence and seat asserted, and otherwise calibration begins. PATROL and SERVICE-OPEN: the bay
stays as it is. A run asked for in the event joins behind the requests that wait. -/
def Obligations.RunsThatSucceed : Prop :=
  ∀ (s : State) (r : Run) (c : Instr) (m : Option Nat) (b : Bay) (x : BayRecord) (waiting : List Request),
    s.run = some r → Ends s r c .success m → DriveLaw s → b = r.bay → (s.bay b).followOn = none → x = atEnd s r m →
    waiting = s.drive.waiting →
    ((s.bay b).state = .calibrating → r.run = .role .home →
      ((s.input b).presence = true → (s.input b).seat = true → Leaves c s b { x with tagRead := some 1 } waiting) ∧
      ((s.input b).presence = true → (s.input b).seat = false →
        ∃ t, exec c s = .next t ∧ Faulted b .latchFail x s t ∧ HandsOn waiting t ∧ OnlyBay b s t) ∧
      ((s.input b).presence = false → Leaves c s b x (waiting ++ [⟨b, .opening⟩]))) ∧
    ((s.bay b).state = .calibrating ∧ r.run = .opening ∨ (s.bay b).state = .reopening →
      ((s.input b).seat = false ∨ 2 ≤ (s.pendingOf b).length → Leaves c s b { x with state := .empty } waiting) ∧
      ((s.input b).seat = true → (s.pendingOf b).length < 2 →
        Leaves c s b { x with state := .docking } (waiting ++ [⟨b, .role .relatch⟩]))) ∧
    ((s.bay b).state = .docking ∨ (s.bay b).state = .serviceOpen ∧ r.run = .role .serviceClose →
      ((s.input b).presence = true ∧ (s.input b).seat = true → Leaves c s b { x with tagRead := some 1 } waiting) ∧
      (¬((s.input b).presence = true ∧ (s.input b).seat = true) →
        Leaves c s b (calibratingFrom x) (waiting ++ [⟨b, .role .home⟩]))) ∧
    ((s.bay b).state = .docked ∧ r.run = .role .patrol ∨ (s.bay b).state = .serviceOpen ∧ r.run = .role .serviceOpen →
      Leaves c s b x waiting)

/-- R116, R117, R120, R122, R128, R130 to R132, R136, R137, R141 to R143: a run that fails, at a limit or on a driver failure, no
follow-on named, leaves its bay FAULTED and hands the drive on: in CALIBRATING with HOME NOT FOUND for HOME and LATCH FAIL for
the opening, in DOCKED, REOPENING and SERVICE-OPEN with LATCH FAIL; on a driver failure with DRIVER FAULT, but for a PATROL
run, and DRIVER FAULT is recorded on the bay's source. In DOCKING a seated bicycle's tag is read first, and otherwise a RETURN
with the latch-failed mark is handed to the store. That the bay's record keeps what no rule takes from it is the model's
inference (log 15). -/
def Obligations.RunsThatFail : Prop :=
  ∀ (s : State) (r : Run) (c : Instr) (e : Ending) (m : Option Nat) (b : Bay) (x : BayRecord) (fault : FaultCode),
    s.run = some r → Ends s r c e m → (e = .limit ∨ e = .driver) → DriveLaw s → b = r.bay → (s.bay b).followOn = none →
    x = atEnd s r m → fault = (if e = .driver then .driverFault else .latchFail) →
    (∀ code : FaultCode,
      ((s.bay b).state = .calibrating ∧ r.run = .role .home ∧
          code = (if e = .driver then .driverFault else .homeNotFound) ∨
        (s.bay b).state = .docked ∧ r.run = .role .patrol ∧ code = .latchFail ∨
        ((s.bay b).state = .calibrating ∧ r.run = .opening ∨ (s.bay b).state = .reopening ∨
          (s.bay b).state = .serviceOpen) ∧ code = fault) →
      ∃ t, exec c s = .next t ∧ Faulted b code x s t ∧ HandsOn s.drive.waiting t ∧ OnlyBay b s t ∧
        (e = .driver → s.mode.working = true → s.masked (.bay b) = false →
          (Source.bay b, Code.driverFault) ∈ attentionPairs t)) ∧
    ((s.bay b).state = .docking →
      ((s.input b).presence = true ∧ (s.input b).seat = true →
        Leaves c s b { x with failedDock := some fault, tagRead := some 1 } s.drive.waiting ∧
          (e = .driver → s.mode.working = true → s.masked (.bay b) = false →
            ∃ t, exec c s = .next t ∧ (Source.bay b, Code.driverFault) ∈ attentionPairs t)) ∧
      (¬((s.input b).presence = true ∧ (s.input b).seat = true) →
        ∃ t, exec c s = .next t ∧ Faulted b fault x s t ∧ HandsOn s.drive.waiting t ∧
          Recorded (.returned b (s.bay b).bikeId (s.bay b).bikeClass true) s t.store ∧
          (∀ d, d ≠ b → t.bay d = s.bay d) ∧ t.table = s.table ∧ t.tap = s.tap))

/-- R105, R106, R114, R124, R125, R143, R146: a RELEASE run that ends in SUCCESS opens its bay: the take timer starts, the
transaction waiting for the bay is GRANTED, and OPEN is shown; without presence the withdrawal follows in the same event. One that
fails leaves the bay FAULTED without its claim, with FORCED REMOVAL without presence and otherwise LATCH FAIL or DRIVER FAULT; the
claim goes to the first later candidate that is eligible, with the entry and the rotation pointer, or, with none left, ends with
LAPSE(NO BAY), the post-level record and BAY FAULT. The clear point is the count measured, and the drive goes on. That the bay
of a failed RELEASE, without presence too, keeps its bike ID and class is the model's inference (log 15).
Model's form: log 2. -/
def Obligations.ReleasesEnd : Prop :=
  ∀ (s : State) (r : Run) (c : Instr) (e : Ending) (m : Option Nat) (b : Bay) (x : BayRecord) (tok : Token) (n : Entry),
    s.run = some r → Ends s r c e m → DriveLaw s → b = r.bay → (s.bay b).state = .releasing → (s.bay b).followOn = none →
    s.tap.phase = .releaseStart → s.tap.chosen = some b → s.tap.token = some tok → (s.bay b).claim = some tok.id →
    s.entry tok.id = some n → n.status = .ownHeld → x = atEnd s r m →
    (e = .success →
      ((s.input b).presence = true → ∃ t, exec c s = .next t ∧
        t.bay b = { x with state := .opened, take := some (1000 * s.cfg.takeS) } ∧ (∀ d, d ≠ b → t.bay d = s.bay d) ∧
        t.tap = { s.tap with phase := .verdict, verdict := some (.granted b) } ∧
        Told (.verdict (.granted b) .transaction) t ∧ Told (.bayLight b .opened) t ∧ t.table = s.table ∧
        t.store = s.store ∧ t.rlc = s.rlc ∧ HandsOn s.drive.waiting t) ∧
      ((s.input b).presence = false → ∃ t, exec c s = .next t ∧
        t.bay b = { x with
          state := if (s.input b).seat = true ∧ (t.pendingOf b).length < 2 then .docking else .empty
          take := none, claim := none, bikeId := none, bikeClass := none } ∧ (∀ d, d ≠ b → t.bay d = s.bay d) ∧
        t.tap = { s.tap with phase := .verdict, verdict := some (.granted b) } ∧
        Told (.verdict (.granted b) .transaction) t ∧ Told (.bayLight b .shut) t ∧
        t.entry tok.id = some { n with status := .ownTaken } ∧ (∀ u, u ≠ tok.id → t.entry u = s.entry u) ∧
        Recorded (.start b tok.id (s.bay b).bikeId (s.bay b).bikeClass false) s t.store ∧
        HandsOn (s.drive.waiting ++ (if (s.input b).seat = true ∧ (t.pendingOf b).length < 2 then
          [⟨b, .role .relatch⟩] else [])) t)) ∧
    (e = .limit ∨ e = .driver → ∀ code : FaultCode,
      code = (if (s.input b).presence = false then .forcedRemoval else if e = .driver then .driverFault else .latchFail) →
      (∀ (j : Nat) (d : Bay), NextCandidate s tok j d → ∃ t, exec c s = .next t ∧ Faulted b code x s t ∧
        t.bay d = { s.bay d with state := .releasing, claim := some tok.id } ∧
        (∀ k, k ≠ b → k ≠ d → t.bay k = s.bay k) ∧
        HandsOn (s.drive.waiting.filter (fun q => q.bay != d) ++ [⟨d, .role .release⟩]) t ∧
        t.tap = { s.tap with position := j, chosen := some d, rotation := d, phase := .releaseStart } ∧
        t.entry tok.id = some { n with bay := some d } ∧ (∀ u, u ≠ tok.id → t.entry u = s.entry u) ∧ t.store = s.store) ∧
      ((∀ (j : Nat) (d : Bay), ¬NextCandidate s tok j d) → TableLaw s → ∃ t, exec c s = .next t ∧
        Faulted b code x s t ∧ (∀ d, d ≠ b → t.bay d = s.bay d) ∧ HandsOn s.drive.waiting t ∧
        t.tap = { s.tap with phase := .verdict, verdict := some .bayFault } ∧
        Told (.verdict .bayFault .transaction) t ∧ t.entry tok.id = none ∧
        (∀ u, u ≠ tok.id → t.entry u = s.entry u) ∧
        (s.rlc.protocol.length < 12 → (⟨.lapse tok.id .noBay, 0⟩ : Queued) ∈ t.rlc.protocol) ∧
        Recorded (.noBay tok.id) s t.store))

/-- R65, R114, R127, R132, R143: the RELATCH run of a RELATCHING bay that ends in SUCCESS or FAIL ends the held claim as a lapse: a
LAPSE record with the bay, the token, the bicycle and the cause is handed to the store, the entry is removed, LAPSE is queued with
the cause as its reason where the protocol queue has room, and the claim and the cause are gone. The bay is DOCKED on SUCCESS, with
its bicycle, and FAULTED on FAIL, with LATCH FAIL or DRIVER FAULT. The drive goes on. That the bay keeps its bike ID and class
on FAIL too, where R127 states it of SUCCESS alone, is the model's inference (log 15). -/
def Obligations.RelatchesEnd : Prop :=
  ∀ (s : State) (r : Run) (c : Instr) (e : Ending) (m : Option Nat) (b : Bay) (x : BayRecord) (tok : TokenId) (n : Entry)
    (cause : RelatchCause), s.run = some r → Ends s r c e m → e ≠ .stopped → DriveLaw s → TableLaw s → b = r.bay →
    (s.bay b).state = .relatching → (s.bay b).followOn = none → (s.bay b).claim = some tok → (s.bay b).cause = some cause →
    s.entry tok = some n → n.status = .ownHeld → x = { atEnd s r m with claim := none, cause := none } →
    ∃ t, exec c s = .next t ∧ (e = .success → t.bay b = { x with state := .docked }) ∧
      (e ≠ .success → Faulted b (if e = .driver then .driverFault else .latchFail) x s t) ∧
      (∀ d, d ≠ b → t.bay d = s.bay d) ∧ t.entry tok = none ∧ (∀ u, u ≠ tok → t.entry u = s.entry u) ∧
      (s.rlc.protocol.length < 12 →
        (⟨.lapse tok (if cause = .notTaken then .notTaken else .relatchAction), 0⟩ : Queued) ∈ t.rlc.protocol) ∧
      Recorded (.lapse b tok (s.bay b).bikeId (s.bay b).bikeClass cause) s t.store ∧ t.tap = s.tap ∧ t.ce = s.ce ∧
      HandsOn s.drive.waiting t

/-- R114, R118, R121, R128, R142, R143: a run that ends at a bay with a follow-on named, whatever its result, is set aside, its
measured count apart: the follow-on is asked for in the same event and its field cleared. A run asked to stop that ends STOPPED, at
the end of the pulse, short of its step's end, or between two steps, with no follow-on named, changes its bay no further. A stop
asked for in a DWELL ends the run at once, and with the driver-fault input asserted records DRIVER FAULT: a PATROL run at forced
removal; a RELATCH run at the seat falling in DOCKING, with HOME asked for, and at a late withdrawal, with RELEASE asked for.
Elsewhere the PATROL run goes on to its boundary. That a further SERVICE-CLOSE run in progress as presence or seat falls in a
tag read (log 14) is asked to stop like the PATROL run is the model's choice (log 39). -/
def Obligations.StoppedRuns : Prop :=
  (∀ (s : State) (r : Run) (c : Instr) (e : Ending) (m : Option Nat) (b : Bay), s.run = some r → Ends s r c e m →
    DriveLaw s → b = r.bay →
    (∀ f : FollowOn, (s.bay b).followOn = some f →
      Leaves c s b { atEnd s r m with followOn := none }
        (s.drive.waiting ++ [⟨b, .role (if f = .home then .home else .release)⟩])) ∧
    (e = .stopped → (s.bay b).followOn = none → Leaves c s b (atEnd s r m) s.drive.waiting)) ∧
  ∀ (s : State) (r : Run) (b : Bay) (c : Instr) (x : BayRecord), s.run = some r → b = r.bay → DriveLaw s →
    s.mode.working = true → (s.bay b).followOn = none → x = atEnd s r r.measured →
    (c = .presenceFalling b ∧ (s.input b).presence = true ∨ c = .seatFalling b ∧ (s.input b).seat = true) →
    ((s.bay b).tagRead = none ∧ (s.bay b).state = .docked ∨
        (∃ n, (s.bay b).tagRead = some n) ∧ (s.bay b).state = .serviceOpen ∧ r.run = .role .serviceClose →
      (r.dwelling = false → ∃ t, exec c s = .next t ∧
        Faulted b .forcedRemoval { s.bay b with bikeId := none, bikeClass := none } s t ∧ OnlyBay b s t ∧
        t.run = some { r with stop := true } ∧ t.drive = s.drive) ∧
      (r.dwelling = true → ∃ t, exec c s = .next t ∧
        Faulted b .forcedRemoval { x with bikeId := none, bikeClass := none } s t ∧ OnlyBay b s t ∧
        HandsOn s.drive.waiting t ∧ StoppedOrFailed b s t)) ∧
    (c = .seatFalling b → (s.bay b).tagRead = none → (s.bay b).state = .docking → r.dwelling = true → ∃ t, exec c s = .next t ∧
      t.bay b = calibratingFrom x ∧ OnlyBay b s t ∧ HandsOn (s.drive.waiting ++ [⟨b, .role .home⟩]) t ∧
      StoppedOrFailed b s t) ∧
    (c = .presenceFalling b → (s.bay b).tagRead = none → (s.bay b).state = .relatching → r.dwelling = true →
      ∀ (tok : TokenId) (n : Entry), (s.bay b).claim = some tok → s.entry tok = some n → n.status = .ownHeld →
      ∃ t, exec c s = .next t ∧
        t.bay b = { x with state := .reopening, claim := none, cause := none, bikeId := none, bikeClass := none } ∧
        t.entry tok = some { n with status := .ownTaken } ∧ (∀ u, u ≠ tok → t.entry u = s.entry u) ∧
        Recorded (.start b tok (s.bay b).bikeId (s.bay b).bikeClass true) s t.store ∧
        (∀ d, d ≠ b → t.bay d = s.bay d) ∧ HandsOn (s.drive.waiting ++ [⟨b, .role .release⟩]) t ∧ StoppedOrFailed b s t)

/-! ### Laws every command keeps -/

/-- R19: no command makes the table hold two entries for one token or change its number of places. -/
def Obligations.EveryCommandKeepsTheTableLaw : Prop :=
  ∀ (c : Instr) (s t : State), TableLaw s → exec c s = .next t → TableLaw t

/-- R44, R47, R57, R68, R147, R170: no command takes the transmit queues, their veto counts, the objection set, the delay
list or the store past their bounds. -/
def Obligations.EveryCommandKeepsTheBounds : Prop :=
  ∀ (c : Instr) (s t : State), exec c s = .next t →
    (QueueLaw s → QueueLaw t) ∧ (VetoLaw s → VetoLaw t) ∧ (SetLaw s → SetLaw t) ∧ (StoreLaw s → StoreLaw t)

/-- R160 to R162: no command takes the Attention Queue past 16 entries, records a pair twice, or takes a repeat count past
255. -/
def Obligations.EveryCommandKeepsTheAttentionLaw : Prop :=
  ∀ (c : Instr) (s t : State), AttentionLaw s → exec c s = .next t → AttentionLaw t

/-- R144, R146: each bay has at most one run requested or running, one run at most is running in the whole post, and the
drive is held by the bay it runs for; no command breaks this. -/
def Obligations.EveryCommandKeepsTheDriveLaw : Prop :=
  ∀ (c : Instr) (s t : State), DriveLaw s → exec c s = .next t → DriveLaw t

/-- R177: the post mode changes only by the rows of its table; R179: a restart that is due waits in MAINTENANCE for the end
of the attempt in flight, and no command breaks this. -/
def Obligations.ModesChangeByTheirTable : Prop :=
  ∀ (c : Instr) (s t : State), RestartLaw s → exec c s = .next t → RestartLaw t ∧ (¬isReset c → ModeStep s.mode t.mode)

/-- R178: in CLOSING the event at which all bays are idle, no fitted bay in one of the six busy states and the tap transaction
in IDLE, takes the post to MAINTENANCE: that is the check the statements above name, and after it, as after every command, a
post in CLOSING is not idle.
Model's form: log 11. -/
def Obligations.ClosingEndsWhenAllBaysAreIdle : Prop :=
  (∀ s : State,
    (s.mode = .closing → s.tap.phase = .idle →
      (∀ b : Bay, b.val < s.cfg.baysFitted → (s.bay b).state ∉
        [BayState.reserved, .releasing, .opened, .relatching, .reopening, .docking]) →
      s.closingCheck = { s with mode := .maintenance }) ∧
    ((s.mode ≠ .closing ∨ s.tap.phase ≠ .idle ∨ ∃ b : Bay, b.val < s.cfg.baysFitted ∧ (s.bay b).state ∈
        [BayState.reserved, .releasing, .opened, .relatching, .reopening, .docking]) → s.closingCheck = s)) ∧
  ∀ (c : Instr) (s t : State), ClosingLaw s → exec c s = .next t → ClosingLaw t

/-- The post right after power-on satisfies every law above. -/
def Obligations.ResetSatisfiesTheLaws : Prop :=
  TableLaw State.reset ∧ QueueLaw State.reset ∧ VetoLaw State.reset ∧ SetLaw State.reset ∧ StoreLaw State.reset ∧
    AttentionLaw State.reset ∧ DriveLaw State.reset ∧ StampLaw State.reset ∧ RestartLaw State.reset ∧ ClosingLaw State.reset

/-- R40, R181: bytes with a sound envelope, sent with their check word and stuff bits, are found undamaged by every receiver
that reads the levels sent. Bytes with a broken envelope, bytes sent with another check word, and levels six of which in a row
are equal are found damaged.
Model's form: log 26. -/
def Obligations.FramesAreReadBackUndamagedAndDamageIsFound : Prop :=
  (∀ bytes : List Byte, envelopeSound bytes = true → damaged (lineLevels bytes) = false) ∧
  (∀ bytes : List Byte, envelopeSound bytes = false → damaged (lineLevels bytes) = true) ∧
  (∀ (bytes : List Byte) (word : BitVec 16), word ≠ checkWord bytes →
    damaged (stuffFrom true 0 (false :: bitsOf (bytes ++ beBytes 2 word.toNat))) = true) ∧
  ∀ (before after : List Bool) (level : Bool), damaged (before ++ List.replicate 6 level ++ after) = true
end

