-- ==== Sys2Proof/Laws/State.lean ====
section
/-! SUPPORT. State: what each replacement of a piece of State leaves, one lemma for each field and update. -/

namespace Sys2Proof.Machine

section

variable (s : State) (x : PostMode)

@[simp] theorem State.setMode_mode : (s.setMode x).mode = x := rfl
@[simp] theorem State.setMode_strap : (s.setMode x).strap = s.strap := rfl
@[simp] theorem State.setMode_image : (s.setMode x).image = s.image := rfl
@[simp] theorem State.setMode_restartDue : (s.setMode x).restartDue = s.restartDue := rfl
@[simp] theorem State.setMode_rlc : (s.setMode x).rlc = s.rlc := rfl
@[simp] theorem State.setMode_table : (s.setMode x).table = s.table := rfl
@[simp] theorem State.setMode_ce : (s.setMode x).ce = s.ce := rfl
@[simp] theorem State.setMode_ju : (s.setMode x).ju = s.ju := rfl
@[simp] theorem State.setMode_ssu : (s.setMode x).ssu = s.ssu := rfl
@[simp] theorem State.setMode_tcu : (s.setMode x).tcu = s.tcu := rfl
@[simp] theorem State.setMode_tap : (s.setMode x).tap = s.tap := rfl
@[simp] theorem State.setMode_link : (s.setMode x).link = s.link := rfl
@[simp] theorem State.setMode_bays : (s.setMode x).bays = s.bays := rfl
@[simp] theorem State.setMode_inputs : (s.setMode x).inputs = s.inputs := rfl
@[simp] theorem State.setMode_cold : (s.setMode x).cold = s.cold := rfl
@[simp] theorem State.setMode_patrol : (s.setMode x).patrol = s.patrol := rfl
@[simp] theorem State.setMode_drive : (s.setMode x).drive = s.drive := rfl
@[simp] theorem State.setMode_run : (s.setMode x).run = s.run := rfl
@[simp] theorem State.setMode_store : (s.setMode x).store = s.store := rfl
@[simp] theorem State.setMode_aq : (s.setMode x).aq = s.aq := rfl
@[simp] theorem State.setMode_delays : (s.setMode x).delays = s.delays := rfl
@[simp] theorem State.setMode_pending : (s.setMode x).pending = s.pending := rfl

end

section

variable (s : State) (x : Addr)

@[simp] theorem State.setStrap_mode : (s.setStrap x).mode = s.mode := rfl
@[simp] theorem State.setStrap_strap : (s.setStrap x).strap = x := rfl
@[simp] theorem State.setStrap_image : (s.setStrap x).image = s.image := rfl
@[simp] theorem State.setStrap_restartDue : (s.setStrap x).restartDue = s.restartDue := rfl
@[simp] theorem State.setStrap_rlc : (s.setStrap x).rlc = s.rlc := rfl
@[simp] theorem State.setStrap_table : (s.setStrap x).table = s.table := rfl
@[simp] theorem State.setStrap_ce : (s.setStrap x).ce = s.ce := rfl
@[simp] theorem State.setStrap_ju : (s.setStrap x).ju = s.ju := rfl
@[simp] theorem State.setStrap_ssu : (s.setStrap x).ssu = s.ssu := rfl
@[simp] theorem State.setStrap_tcu : (s.setStrap x).tcu = s.tcu := rfl
@[simp] theorem State.setStrap_tap : (s.setStrap x).tap = s.tap := rfl
@[simp] theorem State.setStrap_link : (s.setStrap x).link = s.link := rfl
@[simp] theorem State.setStrap_bays : (s.setStrap x).bays = s.bays := rfl
@[simp] theorem State.setStrap_inputs : (s.setStrap x).inputs = s.inputs := rfl
@[simp] theorem State.setStrap_cold : (s.setStrap x).cold = s.cold := rfl
@[simp] theorem State.setStrap_patrol : (s.setStrap x).patrol = s.patrol := rfl
@[simp] theorem State.setStrap_drive : (s.setStrap x).drive = s.drive := rfl
@[simp] theorem State.setStrap_run : (s.setStrap x).run = s.run := rfl
@[simp] theorem State.setStrap_store : (s.setStrap x).store = s.store := rfl
@[simp] theorem State.setStrap_aq : (s.setStrap x).aq = s.aq := rfl
@[simp] theorem State.setStrap_delays : (s.setStrap x).delays = s.delays := rfl
@[simp] theorem State.setStrap_pending : (s.setStrap x).pending = s.pending := rfl

end

section

variable (s : State) (x : Option Image)

@[simp] theorem State.setImage_mode : (s.setImage x).mode = s.mode := rfl
@[simp] theorem State.setImage_strap : (s.setImage x).strap = s.strap := rfl
@[simp] theorem State.setImage_image : (s.setImage x).image = x := rfl
@[simp] theorem State.setImage_restartDue : (s.setImage x).restartDue = s.restartDue := rfl
@[simp] theorem State.setImage_rlc : (s.setImage x).rlc = s.rlc := rfl
@[simp] theorem State.setImage_table : (s.setImage x).table = s.table := rfl
@[simp] theorem State.setImage_ce : (s.setImage x).ce = s.ce := rfl
@[simp] theorem State.setImage_ju : (s.setImage x).ju = s.ju := rfl
@[simp] theorem State.setImage_ssu : (s.setImage x).ssu = s.ssu := rfl
@[simp] theorem State.setImage_tcu : (s.setImage x).tcu = s.tcu := rfl
@[simp] theorem State.setImage_tap : (s.setImage x).tap = s.tap := rfl
@[simp] theorem State.setImage_link : (s.setImage x).link = s.link := rfl
@[simp] theorem State.setImage_bays : (s.setImage x).bays = s.bays := rfl
@[simp] theorem State.setImage_inputs : (s.setImage x).inputs = s.inputs := rfl
@[simp] theorem State.setImage_cold : (s.setImage x).cold = s.cold := rfl
@[simp] theorem State.setImage_patrol : (s.setImage x).patrol = s.patrol := rfl
@[simp] theorem State.setImage_drive : (s.setImage x).drive = s.drive := rfl
@[simp] theorem State.setImage_run : (s.setImage x).run = s.run := rfl
@[simp] theorem State.setImage_store : (s.setImage x).store = s.store := rfl
@[simp] theorem State.setImage_aq : (s.setImage x).aq = s.aq := rfl
@[simp] theorem State.setImage_delays : (s.setImage x).delays = s.delays := rfl
@[simp] theorem State.setImage_pending : (s.setImage x).pending = s.pending := rfl

end

section

variable (s : State) (x : Bool)

@[simp] theorem State.setRestartDue_mode : (s.setRestartDue x).mode = s.mode := rfl
@[simp] theorem State.setRestartDue_strap : (s.setRestartDue x).strap = s.strap := rfl
@[simp] theorem State.setRestartDue_image : (s.setRestartDue x).image = s.image := rfl
@[simp] theorem State.setRestartDue_restartDue : (s.setRestartDue x).restartDue = x := rfl
@[simp] theorem State.setRestartDue_rlc : (s.setRestartDue x).rlc = s.rlc := rfl
@[simp] theorem State.setRestartDue_table : (s.setRestartDue x).table = s.table := rfl
@[simp] theorem State.setRestartDue_ce : (s.setRestartDue x).ce = s.ce := rfl
@[simp] theorem State.setRestartDue_ju : (s.setRestartDue x).ju = s.ju := rfl
@[simp] theorem State.setRestartDue_ssu : (s.setRestartDue x).ssu = s.ssu := rfl
@[simp] theorem State.setRestartDue_tcu : (s.setRestartDue x).tcu = s.tcu := rfl
@[simp] theorem State.setRestartDue_tap : (s.setRestartDue x).tap = s.tap := rfl
@[simp] theorem State.setRestartDue_link : (s.setRestartDue x).link = s.link := rfl
@[simp] theorem State.setRestartDue_bays : (s.setRestartDue x).bays = s.bays := rfl
@[simp] theorem State.setRestartDue_inputs : (s.setRestartDue x).inputs = s.inputs := rfl
@[simp] theorem State.setRestartDue_cold : (s.setRestartDue x).cold = s.cold := rfl
@[simp] theorem State.setRestartDue_patrol : (s.setRestartDue x).patrol = s.patrol := rfl
@[simp] theorem State.setRestartDue_drive : (s.setRestartDue x).drive = s.drive := rfl
@[simp] theorem State.setRestartDue_run : (s.setRestartDue x).run = s.run := rfl
@[simp] theorem State.setRestartDue_store : (s.setRestartDue x).store = s.store := rfl
@[simp] theorem State.setRestartDue_aq : (s.setRestartDue x).aq = s.aq := rfl
@[simp] theorem State.setRestartDue_delays : (s.setRestartDue x).delays = s.delays := rfl
@[simp] theorem State.setRestartDue_pending : (s.setRestartDue x).pending = s.pending := rfl

end

section

variable (s : State) (x : RowLine)

@[simp] theorem State.setRlc_mode : (s.setRlc x).mode = s.mode := rfl
@[simp] theorem State.setRlc_strap : (s.setRlc x).strap = s.strap := rfl
@[simp] theorem State.setRlc_image : (s.setRlc x).image = s.image := rfl
@[simp] theorem State.setRlc_restartDue : (s.setRlc x).restartDue = s.restartDue := rfl
@[simp] theorem State.setRlc_rlc : (s.setRlc x).rlc = x := rfl
@[simp] theorem State.setRlc_table : (s.setRlc x).table = s.table := rfl
@[simp] theorem State.setRlc_ce : (s.setRlc x).ce = s.ce := rfl
@[simp] theorem State.setRlc_ju : (s.setRlc x).ju = s.ju := rfl
@[simp] theorem State.setRlc_ssu : (s.setRlc x).ssu = s.ssu := rfl
@[simp] theorem State.setRlc_tcu : (s.setRlc x).tcu = s.tcu := rfl
@[simp] theorem State.setRlc_tap : (s.setRlc x).tap = s.tap := rfl
@[simp] theorem State.setRlc_link : (s.setRlc x).link = s.link := rfl
@[simp] theorem State.setRlc_bays : (s.setRlc x).bays = s.bays := rfl
@[simp] theorem State.setRlc_inputs : (s.setRlc x).inputs = s.inputs := rfl
@[simp] theorem State.setRlc_cold : (s.setRlc x).cold = s.cold := rfl
@[simp] theorem State.setRlc_patrol : (s.setRlc x).patrol = s.patrol := rfl
@[simp] theorem State.setRlc_drive : (s.setRlc x).drive = s.drive := rfl
@[simp] theorem State.setRlc_run : (s.setRlc x).run = s.run := rfl
@[simp] theorem State.setRlc_store : (s.setRlc x).store = s.store := rfl
@[simp] theorem State.setRlc_aq : (s.setRlc x).aq = s.aq := rfl
@[simp] theorem State.setRlc_delays : (s.setRlc x).delays = s.delays := rfl
@[simp] theorem State.setRlc_pending : (s.setRlc x).pending = s.pending := rfl

end

section

variable (s : State) (x : List (Option Entry))

@[simp] theorem State.setTable_mode : (s.setTable x).mode = s.mode := rfl
@[simp] theorem State.setTable_strap : (s.setTable x).strap = s.strap := rfl
@[simp] theorem State.setTable_image : (s.setTable x).image = s.image := rfl
@[simp] theorem State.setTable_restartDue : (s.setTable x).restartDue = s.restartDue := rfl
@[simp] theorem State.setTable_rlc : (s.setTable x).rlc = s.rlc := rfl
@[simp] theorem State.setTable_table : (s.setTable x).table = x := rfl
@[simp] theorem State.setTable_ce : (s.setTable x).ce = s.ce := rfl
@[simp] theorem State.setTable_ju : (s.setTable x).ju = s.ju := rfl
@[simp] theorem State.setTable_ssu : (s.setTable x).ssu = s.ssu := rfl
@[simp] theorem State.setTable_tcu : (s.setTable x).tcu = s.tcu := rfl
@[simp] theorem State.setTable_tap : (s.setTable x).tap = s.tap := rfl
@[simp] theorem State.setTable_link : (s.setTable x).link = s.link := rfl
@[simp] theorem State.setTable_bays : (s.setTable x).bays = s.bays := rfl
@[simp] theorem State.setTable_inputs : (s.setTable x).inputs = s.inputs := rfl
@[simp] theorem State.setTable_cold : (s.setTable x).cold = s.cold := rfl
@[simp] theorem State.setTable_patrol : (s.setTable x).patrol = s.patrol := rfl
@[simp] theorem State.setTable_drive : (s.setTable x).drive = s.drive := rfl
@[simp] theorem State.setTable_run : (s.setTable x).run = s.run := rfl
@[simp] theorem State.setTable_store : (s.setTable x).store = s.store := rfl
@[simp] theorem State.setTable_aq : (s.setTable x).aq = s.aq := rfl
@[simp] theorem State.setTable_delays : (s.setTable x).delays = s.delays := rfl
@[simp] theorem State.setTable_pending : (s.setTable x).pending = s.pending := rfl

end

section

variable (s : State) (x : ClaimEngine)

@[simp] theorem State.setCe_mode : (s.setCe x).mode = s.mode := rfl
@[simp] theorem State.setCe_strap : (s.setCe x).strap = s.strap := rfl
@[simp] theorem State.setCe_image : (s.setCe x).image = s.image := rfl
@[simp] theorem State.setCe_restartDue : (s.setCe x).restartDue = s.restartDue := rfl
@[simp] theorem State.setCe_rlc : (s.setCe x).rlc = s.rlc := rfl
@[simp] theorem State.setCe_table : (s.setCe x).table = s.table := rfl
@[simp] theorem State.setCe_ce : (s.setCe x).ce = x := rfl
@[simp] theorem State.setCe_ju : (s.setCe x).ju = s.ju := rfl
@[simp] theorem State.setCe_ssu : (s.setCe x).ssu = s.ssu := rfl
@[simp] theorem State.setCe_tcu : (s.setCe x).tcu = s.tcu := rfl
@[simp] theorem State.setCe_tap : (s.setCe x).tap = s.tap := rfl
@[simp] theorem State.setCe_link : (s.setCe x).link = s.link := rfl
@[simp] theorem State.setCe_bays : (s.setCe x).bays = s.bays := rfl
@[simp] theorem State.setCe_inputs : (s.setCe x).inputs = s.inputs := rfl
@[simp] theorem State.setCe_cold : (s.setCe x).cold = s.cold := rfl
@[simp] theorem State.setCe_patrol : (s.setCe x).patrol = s.patrol := rfl
@[simp] theorem State.setCe_drive : (s.setCe x).drive = s.drive := rfl
@[simp] theorem State.setCe_run : (s.setCe x).run = s.run := rfl
@[simp] theorem State.setCe_store : (s.setCe x).store = s.store := rfl
@[simp] theorem State.setCe_aq : (s.setCe x).aq = s.aq := rfl
@[simp] theorem State.setCe_delays : (s.setCe x).delays = s.delays := rfl
@[simp] theorem State.setCe_pending : (s.setCe x).pending = s.pending := rfl

end

section

variable (s : State) (x : JoinUnit)

@[simp] theorem State.setJu_mode : (s.setJu x).mode = s.mode := rfl
@[simp] theorem State.setJu_strap : (s.setJu x).strap = s.strap := rfl
@[simp] theorem State.setJu_image : (s.setJu x).image = s.image := rfl
@[simp] theorem State.setJu_restartDue : (s.setJu x).restartDue = s.restartDue := rfl
@[simp] theorem State.setJu_rlc : (s.setJu x).rlc = s.rlc := rfl
@[simp] theorem State.setJu_table : (s.setJu x).table = s.table := rfl
@[simp] theorem State.setJu_ce : (s.setJu x).ce = s.ce := rfl
@[simp] theorem State.setJu_ju : (s.setJu x).ju = x := rfl
@[simp] theorem State.setJu_ssu : (s.setJu x).ssu = s.ssu := rfl
@[simp] theorem State.setJu_tcu : (s.setJu x).tcu = s.tcu := rfl
@[simp] theorem State.setJu_tap : (s.setJu x).tap = s.tap := rfl
@[simp] theorem State.setJu_link : (s.setJu x).link = s.link := rfl
@[simp] theorem State.setJu_bays : (s.setJu x).bays = s.bays := rfl
@[simp] theorem State.setJu_inputs : (s.setJu x).inputs = s.inputs := rfl
@[simp] theorem State.setJu_cold : (s.setJu x).cold = s.cold := rfl
@[simp] theorem State.setJu_patrol : (s.setJu x).patrol = s.patrol := rfl
@[simp] theorem State.setJu_drive : (s.setJu x).drive = s.drive := rfl
@[simp] theorem State.setJu_run : (s.setJu x).run = s.run := rfl
@[simp] theorem State.setJu_store : (s.setJu x).store = s.store := rfl
@[simp] theorem State.setJu_aq : (s.setJu x).aq = s.aq := rfl
@[simp] theorem State.setJu_delays : (s.setJu x).delays = s.delays := rfl
@[simp] theorem State.setJu_pending : (s.setJu x).pending = s.pending := rfl

end

section

variable (s : State) (x : SiteStamp)

@[simp] theorem State.setSsu_mode : (s.setSsu x).mode = s.mode := rfl
@[simp] theorem State.setSsu_strap : (s.setSsu x).strap = s.strap := rfl
@[simp] theorem State.setSsu_image : (s.setSsu x).image = s.image := rfl
@[simp] theorem State.setSsu_restartDue : (s.setSsu x).restartDue = s.restartDue := rfl
@[simp] theorem State.setSsu_rlc : (s.setSsu x).rlc = s.rlc := rfl
@[simp] theorem State.setSsu_table : (s.setSsu x).table = s.table := rfl
@[simp] theorem State.setSsu_ce : (s.setSsu x).ce = s.ce := rfl
@[simp] theorem State.setSsu_ju : (s.setSsu x).ju = s.ju := rfl
@[simp] theorem State.setSsu_ssu : (s.setSsu x).ssu = x := rfl
@[simp] theorem State.setSsu_tcu : (s.setSsu x).tcu = s.tcu := rfl
@[simp] theorem State.setSsu_tap : (s.setSsu x).tap = s.tap := rfl
@[simp] theorem State.setSsu_link : (s.setSsu x).link = s.link := rfl
@[simp] theorem State.setSsu_bays : (s.setSsu x).bays = s.bays := rfl
@[simp] theorem State.setSsu_inputs : (s.setSsu x).inputs = s.inputs := rfl
@[simp] theorem State.setSsu_cold : (s.setSsu x).cold = s.cold := rfl
@[simp] theorem State.setSsu_patrol : (s.setSsu x).patrol = s.patrol := rfl
@[simp] theorem State.setSsu_drive : (s.setSsu x).drive = s.drive := rfl
@[simp] theorem State.setSsu_run : (s.setSsu x).run = s.run := rfl
@[simp] theorem State.setSsu_store : (s.setSsu x).store = s.store := rfl
@[simp] theorem State.setSsu_aq : (s.setSsu x).aq = s.aq := rfl
@[simp] theorem State.setSsu_delays : (s.setSsu x).delays = s.delays := rfl
@[simp] theorem State.setSsu_pending : (s.setSsu x).pending = s.pending := rfl

end

section

variable (s : State) (x : TokenCheck)

@[simp] theorem State.setTcu_mode : (s.setTcu x).mode = s.mode := rfl
@[simp] theorem State.setTcu_strap : (s.setTcu x).strap = s.strap := rfl
@[simp] theorem State.setTcu_image : (s.setTcu x).image = s.image := rfl
@[simp] theorem State.setTcu_restartDue : (s.setTcu x).restartDue = s.restartDue := rfl
@[simp] theorem State.setTcu_rlc : (s.setTcu x).rlc = s.rlc := rfl
@[simp] theorem State.setTcu_table : (s.setTcu x).table = s.table := rfl
@[simp] theorem State.setTcu_ce : (s.setTcu x).ce = s.ce := rfl
@[simp] theorem State.setTcu_ju : (s.setTcu x).ju = s.ju := rfl
@[simp] theorem State.setTcu_ssu : (s.setTcu x).ssu = s.ssu := rfl
@[simp] theorem State.setTcu_tcu : (s.setTcu x).tcu = x := rfl
@[simp] theorem State.setTcu_tap : (s.setTcu x).tap = s.tap := rfl
@[simp] theorem State.setTcu_link : (s.setTcu x).link = s.link := rfl
@[simp] theorem State.setTcu_bays : (s.setTcu x).bays = s.bays := rfl
@[simp] theorem State.setTcu_inputs : (s.setTcu x).inputs = s.inputs := rfl
@[simp] theorem State.setTcu_cold : (s.setTcu x).cold = s.cold := rfl
@[simp] theorem State.setTcu_patrol : (s.setTcu x).patrol = s.patrol := rfl
@[simp] theorem State.setTcu_drive : (s.setTcu x).drive = s.drive := rfl
@[simp] theorem State.setTcu_run : (s.setTcu x).run = s.run := rfl
@[simp] theorem State.setTcu_store : (s.setTcu x).store = s.store := rfl
@[simp] theorem State.setTcu_aq : (s.setTcu x).aq = s.aq := rfl
@[simp] theorem State.setTcu_delays : (s.setTcu x).delays = s.delays := rfl
@[simp] theorem State.setTcu_pending : (s.setTcu x).pending = s.pending := rfl

end

section

variable (s : State) (x : TapRecord)

@[simp] theorem State.setTap_mode : (s.setTap x).mode = s.mode := rfl
@[simp] theorem State.setTap_strap : (s.setTap x).strap = s.strap := rfl
@[simp] theorem State.setTap_image : (s.setTap x).image = s.image := rfl
@[simp] theorem State.setTap_restartDue : (s.setTap x).restartDue = s.restartDue := rfl
@[simp] theorem State.setTap_rlc : (s.setTap x).rlc = s.rlc := rfl
@[simp] theorem State.setTap_table : (s.setTap x).table = s.table := rfl
@[simp] theorem State.setTap_ce : (s.setTap x).ce = s.ce := rfl
@[simp] theorem State.setTap_ju : (s.setTap x).ju = s.ju := rfl
@[simp] theorem State.setTap_ssu : (s.setTap x).ssu = s.ssu := rfl
@[simp] theorem State.setTap_tcu : (s.setTap x).tcu = s.tcu := rfl
@[simp] theorem State.setTap_tap : (s.setTap x).tap = x := rfl
@[simp] theorem State.setTap_link : (s.setTap x).link = s.link := rfl
@[simp] theorem State.setTap_bays : (s.setTap x).bays = s.bays := rfl
@[simp] theorem State.setTap_inputs : (s.setTap x).inputs = s.inputs := rfl
@[simp] theorem State.setTap_cold : (s.setTap x).cold = s.cold := rfl
@[simp] theorem State.setTap_patrol : (s.setTap x).patrol = s.patrol := rfl
@[simp] theorem State.setTap_drive : (s.setTap x).drive = s.drive := rfl
@[simp] theorem State.setTap_run : (s.setTap x).run = s.run := rfl
@[simp] theorem State.setTap_store : (s.setTap x).store = s.store := rfl
@[simp] theorem State.setTap_aq : (s.setTap x).aq = s.aq := rfl
@[simp] theorem State.setTap_delays : (s.setTap x).delays = s.delays := rfl
@[simp] theorem State.setTap_pending : (s.setTap x).pending = s.pending := rfl

end

section

variable (s : State) (x : TapLink)

@[simp] theorem State.setLink_mode : (s.setLink x).mode = s.mode := rfl
@[simp] theorem State.setLink_strap : (s.setLink x).strap = s.strap := rfl
@[simp] theorem State.setLink_image : (s.setLink x).image = s.image := rfl
@[simp] theorem State.setLink_restartDue : (s.setLink x).restartDue = s.restartDue := rfl
@[simp] theorem State.setLink_rlc : (s.setLink x).rlc = s.rlc := rfl
@[simp] theorem State.setLink_table : (s.setLink x).table = s.table := rfl
@[simp] theorem State.setLink_ce : (s.setLink x).ce = s.ce := rfl
@[simp] theorem State.setLink_ju : (s.setLink x).ju = s.ju := rfl
@[simp] theorem State.setLink_ssu : (s.setLink x).ssu = s.ssu := rfl
@[simp] theorem State.setLink_tcu : (s.setLink x).tcu = s.tcu := rfl
@[simp] theorem State.setLink_tap : (s.setLink x).tap = s.tap := rfl
@[simp] theorem State.setLink_link : (s.setLink x).link = x := rfl
@[simp] theorem State.setLink_bays : (s.setLink x).bays = s.bays := rfl
@[simp] theorem State.setLink_inputs : (s.setLink x).inputs = s.inputs := rfl
@[simp] theorem State.setLink_cold : (s.setLink x).cold = s.cold := rfl
@[simp] theorem State.setLink_patrol : (s.setLink x).patrol = s.patrol := rfl
@[simp] theorem State.setLink_drive : (s.setLink x).drive = s.drive := rfl
@[simp] theorem State.setLink_run : (s.setLink x).run = s.run := rfl
@[simp] theorem State.setLink_store : (s.setLink x).store = s.store := rfl
@[simp] theorem State.setLink_aq : (s.setLink x).aq = s.aq := rfl
@[simp] theorem State.setLink_delays : (s.setLink x).delays = s.delays := rfl
@[simp] theorem State.setLink_pending : (s.setLink x).pending = s.pending := rfl

end

section

variable (s : State) (x : PerBay BayRecord)

@[simp] theorem State.setBays_mode : (s.setBays x).mode = s.mode := rfl
@[simp] theorem State.setBays_strap : (s.setBays x).strap = s.strap := rfl
@[simp] theorem State.setBays_image : (s.setBays x).image = s.image := rfl
@[simp] theorem State.setBays_restartDue : (s.setBays x).restartDue = s.restartDue := rfl
@[simp] theorem State.setBays_rlc : (s.setBays x).rlc = s.rlc := rfl
@[simp] theorem State.setBays_table : (s.setBays x).table = s.table := rfl
@[simp] theorem State.setBays_ce : (s.setBays x).ce = s.ce := rfl
@[simp] theorem State.setBays_ju : (s.setBays x).ju = s.ju := rfl
@[simp] theorem State.setBays_ssu : (s.setBays x).ssu = s.ssu := rfl
@[simp] theorem State.setBays_tcu : (s.setBays x).tcu = s.tcu := rfl
@[simp] theorem State.setBays_tap : (s.setBays x).tap = s.tap := rfl
@[simp] theorem State.setBays_link : (s.setBays x).link = s.link := rfl
@[simp] theorem State.setBays_bays : (s.setBays x).bays = x := rfl
@[simp] theorem State.setBays_inputs : (s.setBays x).inputs = s.inputs := rfl
@[simp] theorem State.setBays_cold : (s.setBays x).cold = s.cold := rfl
@[simp] theorem State.setBays_patrol : (s.setBays x).patrol = s.patrol := rfl
@[simp] theorem State.setBays_drive : (s.setBays x).drive = s.drive := rfl
@[simp] theorem State.setBays_run : (s.setBays x).run = s.run := rfl
@[simp] theorem State.setBays_store : (s.setBays x).store = s.store := rfl
@[simp] theorem State.setBays_aq : (s.setBays x).aq = s.aq := rfl
@[simp] theorem State.setBays_delays : (s.setBays x).delays = s.delays := rfl
@[simp] theorem State.setBays_pending : (s.setBays x).pending = s.pending := rfl

end

section

variable (s : State) (x : PerBay BayInputs)

@[simp] theorem State.setInputs_mode : (s.setInputs x).mode = s.mode := rfl
@[simp] theorem State.setInputs_strap : (s.setInputs x).strap = s.strap := rfl
@[simp] theorem State.setInputs_image : (s.setInputs x).image = s.image := rfl
@[simp] theorem State.setInputs_restartDue : (s.setInputs x).restartDue = s.restartDue := rfl
@[simp] theorem State.setInputs_rlc : (s.setInputs x).rlc = s.rlc := rfl
@[simp] theorem State.setInputs_table : (s.setInputs x).table = s.table := rfl
@[simp] theorem State.setInputs_ce : (s.setInputs x).ce = s.ce := rfl
@[simp] theorem State.setInputs_ju : (s.setInputs x).ju = s.ju := rfl
@[simp] theorem State.setInputs_ssu : (s.setInputs x).ssu = s.ssu := rfl
@[simp] theorem State.setInputs_tcu : (s.setInputs x).tcu = s.tcu := rfl
@[simp] theorem State.setInputs_tap : (s.setInputs x).tap = s.tap := rfl
@[simp] theorem State.setInputs_link : (s.setInputs x).link = s.link := rfl
@[simp] theorem State.setInputs_bays : (s.setInputs x).bays = s.bays := rfl
@[simp] theorem State.setInputs_inputs : (s.setInputs x).inputs = x := rfl
@[simp] theorem State.setInputs_cold : (s.setInputs x).cold = s.cold := rfl
@[simp] theorem State.setInputs_patrol : (s.setInputs x).patrol = s.patrol := rfl
@[simp] theorem State.setInputs_drive : (s.setInputs x).drive = s.drive := rfl
@[simp] theorem State.setInputs_run : (s.setInputs x).run = s.run := rfl
@[simp] theorem State.setInputs_store : (s.setInputs x).store = s.store := rfl
@[simp] theorem State.setInputs_aq : (s.setInputs x).aq = s.aq := rfl
@[simp] theorem State.setInputs_delays : (s.setInputs x).delays = s.delays := rfl
@[simp] theorem State.setInputs_pending : (s.setInputs x).pending = s.pending := rfl

end

section

variable (s : State) (x : Bool)

@[simp] theorem State.setCold_mode : (s.setCold x).mode = s.mode := rfl
@[simp] theorem State.setCold_strap : (s.setCold x).strap = s.strap := rfl
@[simp] theorem State.setCold_image : (s.setCold x).image = s.image := rfl
@[simp] theorem State.setCold_restartDue : (s.setCold x).restartDue = s.restartDue := rfl
@[simp] theorem State.setCold_rlc : (s.setCold x).rlc = s.rlc := rfl
@[simp] theorem State.setCold_table : (s.setCold x).table = s.table := rfl
@[simp] theorem State.setCold_ce : (s.setCold x).ce = s.ce := rfl
@[simp] theorem State.setCold_ju : (s.setCold x).ju = s.ju := rfl
@[simp] theorem State.setCold_ssu : (s.setCold x).ssu = s.ssu := rfl
@[simp] theorem State.setCold_tcu : (s.setCold x).tcu = s.tcu := rfl
@[simp] theorem State.setCold_tap : (s.setCold x).tap = s.tap := rfl
@[simp] theorem State.setCold_link : (s.setCold x).link = s.link := rfl
@[simp] theorem State.setCold_bays : (s.setCold x).bays = s.bays := rfl
@[simp] theorem State.setCold_inputs : (s.setCold x).inputs = s.inputs := rfl
@[simp] theorem State.setCold_cold : (s.setCold x).cold = x := rfl
@[simp] theorem State.setCold_patrol : (s.setCold x).patrol = s.patrol := rfl
@[simp] theorem State.setCold_drive : (s.setCold x).drive = s.drive := rfl
@[simp] theorem State.setCold_run : (s.setCold x).run = s.run := rfl
@[simp] theorem State.setCold_store : (s.setCold x).store = s.store := rfl
@[simp] theorem State.setCold_aq : (s.setCold x).aq = s.aq := rfl
@[simp] theorem State.setCold_delays : (s.setCold x).delays = s.delays := rfl
@[simp] theorem State.setCold_pending : (s.setCold x).pending = s.pending := rfl

end

section

variable (s : State) (x : Timer)

@[simp] theorem State.setPatrol_mode : (s.setPatrol x).mode = s.mode := rfl
@[simp] theorem State.setPatrol_strap : (s.setPatrol x).strap = s.strap := rfl
@[simp] theorem State.setPatrol_image : (s.setPatrol x).image = s.image := rfl
@[simp] theorem State.setPatrol_restartDue : (s.setPatrol x).restartDue = s.restartDue := rfl
@[simp] theorem State.setPatrol_rlc : (s.setPatrol x).rlc = s.rlc := rfl
@[simp] theorem State.setPatrol_table : (s.setPatrol x).table = s.table := rfl
@[simp] theorem State.setPatrol_ce : (s.setPatrol x).ce = s.ce := rfl
@[simp] theorem State.setPatrol_ju : (s.setPatrol x).ju = s.ju := rfl
@[simp] theorem State.setPatrol_ssu : (s.setPatrol x).ssu = s.ssu := rfl
@[simp] theorem State.setPatrol_tcu : (s.setPatrol x).tcu = s.tcu := rfl
@[simp] theorem State.setPatrol_tap : (s.setPatrol x).tap = s.tap := rfl
@[simp] theorem State.setPatrol_link : (s.setPatrol x).link = s.link := rfl
@[simp] theorem State.setPatrol_bays : (s.setPatrol x).bays = s.bays := rfl
@[simp] theorem State.setPatrol_inputs : (s.setPatrol x).inputs = s.inputs := rfl
@[simp] theorem State.setPatrol_cold : (s.setPatrol x).cold = s.cold := rfl
@[simp] theorem State.setPatrol_patrol : (s.setPatrol x).patrol = x := rfl
@[simp] theorem State.setPatrol_drive : (s.setPatrol x).drive = s.drive := rfl
@[simp] theorem State.setPatrol_run : (s.setPatrol x).run = s.run := rfl
@[simp] theorem State.setPatrol_store : (s.setPatrol x).store = s.store := rfl
@[simp] theorem State.setPatrol_aq : (s.setPatrol x).aq = s.aq := rfl
@[simp] theorem State.setPatrol_delays : (s.setPatrol x).delays = s.delays := rfl
@[simp] theorem State.setPatrol_pending : (s.setPatrol x).pending = s.pending := rfl

end

section

variable (s : State) (x : DriveArbiter)

@[simp] theorem State.setDrive_mode : (s.setDrive x).mode = s.mode := rfl
@[simp] theorem State.setDrive_strap : (s.setDrive x).strap = s.strap := rfl
@[simp] theorem State.setDrive_image : (s.setDrive x).image = s.image := rfl
@[simp] theorem State.setDrive_restartDue : (s.setDrive x).restartDue = s.restartDue := rfl
@[simp] theorem State.setDrive_rlc : (s.setDrive x).rlc = s.rlc := rfl
@[simp] theorem State.setDrive_table : (s.setDrive x).table = s.table := rfl
@[simp] theorem State.setDrive_ce : (s.setDrive x).ce = s.ce := rfl
@[simp] theorem State.setDrive_ju : (s.setDrive x).ju = s.ju := rfl
@[simp] theorem State.setDrive_ssu : (s.setDrive x).ssu = s.ssu := rfl
@[simp] theorem State.setDrive_tcu : (s.setDrive x).tcu = s.tcu := rfl
@[simp] theorem State.setDrive_tap : (s.setDrive x).tap = s.tap := rfl
@[simp] theorem State.setDrive_link : (s.setDrive x).link = s.link := rfl
@[simp] theorem State.setDrive_bays : (s.setDrive x).bays = s.bays := rfl
@[simp] theorem State.setDrive_inputs : (s.setDrive x).inputs = s.inputs := rfl
@[simp] theorem State.setDrive_cold : (s.setDrive x).cold = s.cold := rfl
@[simp] theorem State.setDrive_patrol : (s.setDrive x).patrol = s.patrol := rfl
@[simp] theorem State.setDrive_drive : (s.setDrive x).drive = x := rfl
@[simp] theorem State.setDrive_run : (s.setDrive x).run = s.run := rfl
@[simp] theorem State.setDrive_store : (s.setDrive x).store = s.store := rfl
@[simp] theorem State.setDrive_aq : (s.setDrive x).aq = s.aq := rfl
@[simp] theorem State.setDrive_delays : (s.setDrive x).delays = s.delays := rfl
@[simp] theorem State.setDrive_pending : (s.setDrive x).pending = s.pending := rfl

end

section

variable (s : State) (x : Option Run)

@[simp] theorem State.setRun_mode : (s.setRun x).mode = s.mode := rfl
@[simp] theorem State.setRun_strap : (s.setRun x).strap = s.strap := rfl
@[simp] theorem State.setRun_image : (s.setRun x).image = s.image := rfl
@[simp] theorem State.setRun_restartDue : (s.setRun x).restartDue = s.restartDue := rfl
@[simp] theorem State.setRun_rlc : (s.setRun x).rlc = s.rlc := rfl
@[simp] theorem State.setRun_table : (s.setRun x).table = s.table := rfl
@[simp] theorem State.setRun_ce : (s.setRun x).ce = s.ce := rfl
@[simp] theorem State.setRun_ju : (s.setRun x).ju = s.ju := rfl
@[simp] theorem State.setRun_ssu : (s.setRun x).ssu = s.ssu := rfl
@[simp] theorem State.setRun_tcu : (s.setRun x).tcu = s.tcu := rfl
@[simp] theorem State.setRun_tap : (s.setRun x).tap = s.tap := rfl
@[simp] theorem State.setRun_link : (s.setRun x).link = s.link := rfl
@[simp] theorem State.setRun_bays : (s.setRun x).bays = s.bays := rfl
@[simp] theorem State.setRun_inputs : (s.setRun x).inputs = s.inputs := rfl
@[simp] theorem State.setRun_cold : (s.setRun x).cold = s.cold := rfl
@[simp] theorem State.setRun_patrol : (s.setRun x).patrol = s.patrol := rfl
@[simp] theorem State.setRun_drive : (s.setRun x).drive = s.drive := rfl
@[simp] theorem State.setRun_run : (s.setRun x).run = x := rfl
@[simp] theorem State.setRun_store : (s.setRun x).store = s.store := rfl
@[simp] theorem State.setRun_aq : (s.setRun x).aq = s.aq := rfl
@[simp] theorem State.setRun_delays : (s.setRun x).delays = s.delays := rfl
@[simp] theorem State.setRun_pending : (s.setRun x).pending = s.pending := rfl

end

section

variable (s : State) (x : RecordStore)

@[simp] theorem State.setStore_mode : (s.setStore x).mode = s.mode := rfl
@[simp] theorem State.setStore_strap : (s.setStore x).strap = s.strap := rfl
@[simp] theorem State.setStore_image : (s.setStore x).image = s.image := rfl
@[simp] theorem State.setStore_restartDue : (s.setStore x).restartDue = s.restartDue := rfl
@[simp] theorem State.setStore_rlc : (s.setStore x).rlc = s.rlc := rfl
@[simp] theorem State.setStore_table : (s.setStore x).table = s.table := rfl
@[simp] theorem State.setStore_ce : (s.setStore x).ce = s.ce := rfl
@[simp] theorem State.setStore_ju : (s.setStore x).ju = s.ju := rfl
@[simp] theorem State.setStore_ssu : (s.setStore x).ssu = s.ssu := rfl
@[simp] theorem State.setStore_tcu : (s.setStore x).tcu = s.tcu := rfl
@[simp] theorem State.setStore_tap : (s.setStore x).tap = s.tap := rfl
@[simp] theorem State.setStore_link : (s.setStore x).link = s.link := rfl
@[simp] theorem State.setStore_bays : (s.setStore x).bays = s.bays := rfl
@[simp] theorem State.setStore_inputs : (s.setStore x).inputs = s.inputs := rfl
@[simp] theorem State.setStore_cold : (s.setStore x).cold = s.cold := rfl
@[simp] theorem State.setStore_patrol : (s.setStore x).patrol = s.patrol := rfl
@[simp] theorem State.setStore_drive : (s.setStore x).drive = s.drive := rfl
@[simp] theorem State.setStore_run : (s.setStore x).run = s.run := rfl
@[simp] theorem State.setStore_store : (s.setStore x).store = x := rfl
@[simp] theorem State.setStore_aq : (s.setStore x).aq = s.aq := rfl
@[simp] theorem State.setStore_delays : (s.setStore x).delays = s.delays := rfl
@[simp] theorem State.setStore_pending : (s.setStore x).pending = s.pending := rfl

end

section

variable (s : State) (x : AttentionQueue)

@[simp] theorem State.setAq_mode : (s.setAq x).mode = s.mode := rfl
@[simp] theorem State.setAq_strap : (s.setAq x).strap = s.strap := rfl
@[simp] theorem State.setAq_image : (s.setAq x).image = s.image := rfl
@[simp] theorem State.setAq_restartDue : (s.setAq x).restartDue = s.restartDue := rfl
@[simp] theorem State.setAq_rlc : (s.setAq x).rlc = s.rlc := rfl
@[simp] theorem State.setAq_table : (s.setAq x).table = s.table := rfl
@[simp] theorem State.setAq_ce : (s.setAq x).ce = s.ce := rfl
@[simp] theorem State.setAq_ju : (s.setAq x).ju = s.ju := rfl
@[simp] theorem State.setAq_ssu : (s.setAq x).ssu = s.ssu := rfl
@[simp] theorem State.setAq_tcu : (s.setAq x).tcu = s.tcu := rfl
@[simp] theorem State.setAq_tap : (s.setAq x).tap = s.tap := rfl
@[simp] theorem State.setAq_link : (s.setAq x).link = s.link := rfl
@[simp] theorem State.setAq_bays : (s.setAq x).bays = s.bays := rfl
@[simp] theorem State.setAq_inputs : (s.setAq x).inputs = s.inputs := rfl
@[simp] theorem State.setAq_cold : (s.setAq x).cold = s.cold := rfl
@[simp] theorem State.setAq_patrol : (s.setAq x).patrol = s.patrol := rfl
@[simp] theorem State.setAq_drive : (s.setAq x).drive = s.drive := rfl
@[simp] theorem State.setAq_run : (s.setAq x).run = s.run := rfl
@[simp] theorem State.setAq_store : (s.setAq x).store = s.store := rfl
@[simp] theorem State.setAq_aq : (s.setAq x).aq = x := rfl
@[simp] theorem State.setAq_delays : (s.setAq x).delays = s.delays := rfl
@[simp] theorem State.setAq_pending : (s.setAq x).pending = s.pending := rfl

end

section

variable (s : State) (x : List DelayRecord)

@[simp] theorem State.setDelays_mode : (s.setDelays x).mode = s.mode := rfl
@[simp] theorem State.setDelays_strap : (s.setDelays x).strap = s.strap := rfl
@[simp] theorem State.setDelays_image : (s.setDelays x).image = s.image := rfl
@[simp] theorem State.setDelays_restartDue : (s.setDelays x).restartDue = s.restartDue := rfl
@[simp] theorem State.setDelays_rlc : (s.setDelays x).rlc = s.rlc := rfl
@[simp] theorem State.setDelays_table : (s.setDelays x).table = s.table := rfl
@[simp] theorem State.setDelays_ce : (s.setDelays x).ce = s.ce := rfl
@[simp] theorem State.setDelays_ju : (s.setDelays x).ju = s.ju := rfl
@[simp] theorem State.setDelays_ssu : (s.setDelays x).ssu = s.ssu := rfl
@[simp] theorem State.setDelays_tcu : (s.setDelays x).tcu = s.tcu := rfl
@[simp] theorem State.setDelays_tap : (s.setDelays x).tap = s.tap := rfl
@[simp] theorem State.setDelays_link : (s.setDelays x).link = s.link := rfl
@[simp] theorem State.setDelays_bays : (s.setDelays x).bays = s.bays := rfl
@[simp] theorem State.setDelays_inputs : (s.setDelays x).inputs = s.inputs := rfl
@[simp] theorem State.setDelays_cold : (s.setDelays x).cold = s.cold := rfl
@[simp] theorem State.setDelays_patrol : (s.setDelays x).patrol = s.patrol := rfl
@[simp] theorem State.setDelays_drive : (s.setDelays x).drive = s.drive := rfl
@[simp] theorem State.setDelays_run : (s.setDelays x).run = s.run := rfl
@[simp] theorem State.setDelays_store : (s.setDelays x).store = s.store := rfl
@[simp] theorem State.setDelays_aq : (s.setDelays x).aq = s.aq := rfl
@[simp] theorem State.setDelays_delays : (s.setDelays x).delays = x := rfl
@[simp] theorem State.setDelays_pending : (s.setDelays x).pending = s.pending := rfl

end

/-! ### Bays and inputs -/

@[simp] theorem PerBay.get_set {α : Type} (p : PerBay α) (b c : Bay) (x : α) :
    (p.set b x).get c = if c = b then x else p.get c := by
  match b, c with
  | 0, 0 | 0, 1 | 0, 2 | 0, 3 | 1, 0 | 1, 1 | 1, 2 | 1, 3 | 2, 0 | 2, 1 | 2, 2 | 2, 3 | 3, 0 | 3, 1 | 3, 2 | 3, 3 => rfl

@[simp] theorem State.setBay_bay (s : State) (b c : Bay) (r : BayRecord) :
    (s.setBay b r).bay c = if c = b then r else s.bay c := by
  simp [State.bay, State.setBay]

@[simp] theorem State.setInput_input (s : State) (b c : Bay) (i : BayInputs) :
    (s.setInput b i).input c = if c = b then i else s.input c := by
  simp [State.input, State.setInput]

end Sys2Proof.Machine
end

