-- ==== Sys2Proof/Laws/Ops.lean ====
section
/-! SUPPORT. Ops: for each shared operation, all it can change. A proof cites these and does not unfold the operation. -/

namespace Sys2Proof.Machine

variable (s : State)

/-! ### Transmit queues and tap link -/

theorem State.queueProtocol_sets (f : Frame) :
    ∃ p a, s.queueProtocol f = { s with rlc := { s.rlc with protocol := p, attempt := a } } := by
  unfold State.queueProtocol; dsimp only; split <;> exact ⟨_, _, rfl⟩

theorem State.queueService_sets (f : Frame) :
    ∃ q, s.queueService f = { s with rlc := { s.rlc with service := q } } := by
  unfold State.queueService; split <;> exact ⟨_, rfl⟩

theorem State.removeProtocol_sets (p : Frame → Bool) :
    ∃ q a, s.removeProtocol p = { s with rlc := { s.rlc with protocol := q, attempt := a } } := by
  unfold State.removeProtocol
  split
  · exact ⟨_, _, rfl⟩
  · split
    · exact ⟨_, _, rfl⟩
    · split <;> exact ⟨_, _, rfl⟩

theorem State.setSide_sets (side : QueueSide) (q : List Queued) :
    ∃ p v, s.setSide side q = { s with rlc := { s.rlc with protocol := p, service := v } } := by
  cases side <;> exact ⟨_, _, rfl⟩

theorem State.dropAttempt_sets (a : Attempt) :
    ∃ p v, s.dropAttempt a = { s with rlc := { s.rlc with protocol := p, service := v, attempt := none } } := by
  obtain ⟨p, v, h⟩ := s.setSide_sets a.side ((s.side a.side).eraseIdx a.place)
  exact ⟨p, v, by rw [State.dropAttempt, h]; rfl⟩

theorem State.countVeto_sets (a : Attempt) :
    ∃ p v, s.countVeto a = { s with rlc := { s.rlc with protocol := p, service := v, attempt := none } } := by
  obtain ⟨p, v, h⟩ := s.setSide_sets a.side
    ((s.side a.side).modify a.place (fun q => { q with vetoes := q.vetoes + 1 }))
  exact ⟨p, v, by rw [State.countVeto, h]; rfl⟩

theorem State.placeMessage_sets (m : TapMessage) : ∃ l, s.placeMessage m = { s with link := l } := ⟨_, rfl⟩

theorem State.placeLight_sets (b : Bay) (i : Indication) : ∃ l, s.placeLight b i = { s with link := l } := by
  unfold State.placeLight; split <;> exact ⟨_, rfl⟩

theorem State.answerSecond_sets (v : Verdict) : ∃ l, s.answerSecond v = { s with link := l } := by
  unfold State.answerSecond; split <;> exact ⟨_, rfl⟩

theorem State.endTransaction_sets (v : Verdict) : ∃ l, s.endTransaction v =
    { s with tap := { s.tap with phase := .verdict, verdict := some v }, link := l } := ⟨_, rfl⟩

/-- A choice at a send start that is made again has taken the protocol queue's head out: a CLAIM withdrawn, or a DUMP whose
place a DUMP-END takes (R43, R61, R84). -/
theorem State.choose_again (x : State) (h : s.choose = .again x) :
    ∃ q rest, s.rlc.protocol = q :: rest ∧
      (x = s.setProtocol rest ∨ x = (s.setProtocol rest).queueProtocol .dumpEnd) := by
  cases hp : s.rlc.protocol with
  | nil =>
    rw [State.choose, hp] at h
    cases hs : s.rlc.service <;> rw [hs] at h <;> cases h
  | cons q rest =>
    refine ⟨q, rest, rfl, ?_⟩
    rw [State.choose, hp] at h
    dsimp only at h
    cases hf : q.frame <;> rw [hf] at h <;> dsimp only at h <;> try cases h
    · split at h
      · cases h
      · cases h; exact .inl rfl
    · split at h
      · cases h; exact .inr rfl
      · cases h

/-! ### Attention -/

theorem State.offerNotice_sets : ∃ aq q, s.offerNotice = { s with aq := aq, rlc := { s.rlc with service := q } } := by
  unfold State.offerNotice
  split
  · exact ⟨_, _, rfl⟩
  · split
    · obtain ⟨q, h⟩ := s.queueService_sets (.notice ‹QueuedAttention›.att)
      exact ⟨_, q, by rw [h]; rfl⟩
    · exact ⟨_, _, rfl⟩

theorem State.enterAttention_sets (a : Attention) :
    ∃ aq q, s.enterAttention a = { s with aq := aq, rlc := { s.rlc with service := q } } := by
  obtain ⟨aq, q, h⟩ := (s.setEntries (s.aq.queue ++ [⟨a, false⟩])).offerNotice_sets
  exact ⟨aq, q, by rw [State.enterAttention, h]; rfl⟩

theorem State.raise_sets (src : Source) (code : Code) :
    ∃ aq q, s.raise src code = { s with aq := aq, rlc := { s.rlc with service := q } } := by
  unfold State.raise
  split
  · exact ⟨_, _, rfl⟩
  · split
    · exact ⟨_, _, rfl⟩
    · split
      · exact ⟨_, _, rfl⟩
      · split
        · exact s.enterAttention_sets _
        · exact ⟨_, _, rfl⟩

/-- Raising a code adds to the service queue's tail at most. -/
theorem State.raise_service (src : Source) (code : Code) :
    ∃ l, (s.raise src code).rlc.service = s.rlc.service ++ l := by
  have same : ∃ l, s.rlc.service = s.rlc.service ++ l := ⟨[], (List.append_nil _).symm⟩
  unfold State.raise
  split
  · exact same
  · split
    · exact same
    · split
      · exact same
      · split
        · unfold State.enterAttention State.offerNotice
          split
          · exact same
          · split
            · unfold State.queueService
              split
              · exact ⟨_, rfl⟩
              · exact same
            · exact same
        · exact same

theorem State.promote_sets : ∃ aq q, s.promote = { s with aq := aq, rlc := { s.rlc with service := q } } := by
  unfold State.promote
  split
  · split
    · obtain ⟨aq, q, h⟩ := State.enterAttention_sets _ _
      exact ⟨aq, q, by rw [h]; rfl⟩
    · exact ⟨_, _, rfl⟩
  · exact ⟨_, _, rfl⟩

theorem State.noticeSent_sets : ∃ aq q, s.noticeSent = { s with aq := aq, rlc := { s.rlc with service := q } } := by
  unfold State.noticeSent
  split
  · obtain ⟨aq, q, h⟩ := (s.setEntries (s.aq.queue.filter (fun e => !e.noticed))).promote_sets
    rw [h]
    obtain ⟨aq', q', h'⟩ := State.offerNotice_sets _
    exact ⟨aq', q', by rw [h']; rfl⟩
  · exact s.offerNotice_sets

theorem State.takeOldest_sets : ∃ aq q, s.takeOldest = { s with aq := aq, rlc := { s.rlc with service := q } } := by
  unfold State.takeOldest
  obtain ⟨aq, q, h⟩ := (s.setEntries s.aq.queue.tail).promote_sets
  rw [h]
  obtain ⟨aq', q', h'⟩ := State.offerNotice_sets _
  exact ⟨aq', q', by rw [h']; rfl⟩

/-! ### Table and stamp -/

theorem State.insertEntry_sets (e : Entry) :
    ∃ t aq q, s.insertEntry e = { s with table := t, aq := aq, rlc := { s.rlc with service := q } } := by
  unfold State.insertEntry
  split
  · exact ⟨_, _, _, rfl⟩
  · split
    · exact ⟨_, _, _, rfl⟩
    · split
      · obtain ⟨aq, q, h⟩ := State.raise_sets _ .table .tablePressure
        exact ⟨_, aq, q, by rw [h]; rfl⟩
      · exact ⟨_, _, _, rfl⟩

theorem State.merge_sets (d : DumpEntry) :
    ∃ t aq q, s.merge d = { s with table := t, aq := aq, rlc := { s.rlc with service := q } } := by
  unfold State.merge
  split
  · exact ⟨_, _, _, rfl⟩
  · exact s.insertEntry_sets _

theorem State.mergeAll_sets (entries : List DumpEntry) : ∀ s : State, ∃ t aq q,
    entries.foldl (fun x e => x.merge e) s = { s with table := t, aq := aq, rlc := { s.rlc with service := q } } := by
  induction entries with
  | nil => exact fun s => ⟨_, _, _, rfl⟩
  | cons e rest ih =>
    intro s
    obtain ⟨t, aq, q, h⟩ := s.merge_sets e
    obtain ⟨t', aq', q', h'⟩ := ih (s.merge e)
    exact ⟨t', aq', q', by rw [List.foldl_cons, h', h]⟩

theorem State.takeStamp_sets (x : Stamp) : s.takeStamp x =
    { s with
      ssu := ⟨some x, .set, some s.beaconLossMs, some Config.secondMs⟩
      table := s.table.map (fun slot => slot.filter (fun e => !(e.status.evictable && e.expiry.toNat < x.toNat))) } := rfl

/-! ### Drive -/

theorem State.grant_sets : ∃ d r, s.grant = { s with drive := d, run := r } := by
  unfold State.grant; split <;> exact ⟨_, _, rfl⟩

theorem State.requestRun_sets (b : Bay) (run : RunFor) : ∃ d r, s.requestRun b run = { s with drive := d, run := r } := by
  unfold State.requestRun
  split
  · exact ⟨_, _, rfl⟩
  · obtain ⟨d, r, h⟩ := State.grant_sets (s.setDrive { s.drive with waiting := s.drive.waiting ++ [⟨b, run⟩] })
    exact ⟨d, r, by rw [h]; rfl⟩

/-! ### Store -/

theorem State.fillSegment_sets (g : Nat) :
    ∃ st q, s.fillSegment g = { s with store := st, rlc := { s.rlc with service := q } } := by
  unfold State.fillSegment
  obtain ⟨q, h⟩ := State.queueService_sets _ _
  exact ⟨_, q, by rw [h]; rfl⟩

theorem State.writeRecord_sets (held : Bool) (body : RecordBody) :
    ∃ st aq q, s.writeRecord held body = { s with store := st, aq := aq, rlc := { s.rlc with service := q } } := by
  unfold State.writeRecord
  split
  · obtain ⟨st, q, h⟩ := State.fillSegment_sets (s.placeRecord held body) s.writerSegment
    rw [h]
    dsimp only
    split
    · obtain ⟨aq, q', h'⟩ := State.raise_sets _ .store .storeBlocked
      exact ⟨_, aq, q', by rw [h']; rfl⟩
    · exact ⟨_, _, _, rfl⟩
  · exact ⟨_, _, _, rfl⟩

theorem State.handOver_sets (held : Bool) (body : RecordBody) :
    ∃ st aq q, s.handOver held body = { s with store := st, aq := aq, rlc := { s.rlc with service := q } } := by
  unfold State.handOver
  split
  · unfold State.pend; split <;> exact ⟨_, _, _, rfl⟩
  · exact s.writeRecord_sets held body

theorem handOverAll_sets (l : List RecordBody) : ∀ s : State, ∃ st aq q,
    l.foldl (fun x body => x.handOver true body) s =
      { s with store := st, aq := aq, rlc := { s.rlc with service := q } } := by
  induction l with
  | nil => exact fun s => ⟨_, _, _, rfl⟩
  | cons e rest ih =>
    intro s
    obtain ⟨st, aq, q, h⟩ := s.handOver_sets true e
    obtain ⟨st', aq', q', h'⟩ := ih (s.handOver true e)
    exact ⟨st', aq', q', by rw [List.foldl_cons, h', h]⟩

theorem State.drain_sets : ∃ st aq q, s.drain = { s with store := st, aq := aq, rlc := { s.rlc with service := q } } := by
  unfold State.drain
  obtain ⟨st, aq, q, h⟩ := handOverAll_sets s.store.waiting (s.setStore { s.store with waiting := [] })
  exact ⟨st, aq, q, by rw [h]; rfl⟩

/-- A record that meets a store which is not BLOCKED, short of its segment's end, is written and changes the store alone
(R149). -/
theorem State.handOver_written (held : Bool) (body : RecordBody) (hb : s.blocked = false)
    (he : s.store.writer % s.segmentSize ≠ s.segmentSize - 1) :
    s.handOver held body = { s with store := { s.store with
      slots := s.store.slots.set s.store.writer (some (s.recordFor held body))
      nextSeq := s.store.nextSeq + 1, writer := (s.store.writer + 1) % Config.storeSlots } } := by
  have h : s.atSegmentEnd = false := by simp [State.atSegmentEnd, he]
  rw [State.handOver, hb, State.writeRecord, h]; rfl

/-! ### Bays -/

theorem State.tryDock_sets (b : Bay) : ∃ bs d r, s.tryDock b = { s with bays := bs, drive := d, run := r } := by
  unfold State.tryDock
  split
  · obtain ⟨d, r, h⟩ := State.requestRun_sets (s.updateBay b (fun r => { r with state := .docking })) b (.role .relatch)
    exact ⟨_, d, r, by rw [h]; rfl⟩
  · exact ⟨_, _, _, rfl⟩

theorem State.enterEmpty_sets (b : Bay) : ∃ bs d r, s.enterEmpty b = { s with bays := bs, drive := d, run := r } := by
  obtain ⟨bs, d, r, h⟩ := State.tryDock_sets (s.updateBay b (fun r => { r with state := .empty })) b
  exact ⟨bs, d, r, by rw [State.enterEmpty, h]; rfl⟩

theorem State.calibrate_sets (b : Bay) : ∃ bs d r, s.calibrate b = { s with bays := bs, drive := d, run := r } := by
  unfold State.calibrate
  split
  · exact ⟨_, _, _, rfl⟩
  · obtain ⟨d, r, h⟩ := State.requestRun_sets (s.updateBay b BayRecord.calibrating) b (.role .home)
    exact ⟨_, d, r, by rw [h]; rfl⟩

theorem State.faultBay_sets (b : Bay) (code : FaultCode) (raised : Bool) : ∃ l aq q, s.faultBay b code raised =
    { s with
      bays := s.bays.set b ((s.bay b).faulted code)
      drive := { s.drive with waiting := s.drive.waiting.filter (fun r => r.bay != b) }
      link := l, aq := aq, rlc := { s.rlc with service := q } } := by
  unfold State.faultBay
  dsimp only
  split
  · obtain ⟨l, h⟩ := State.placeLight_sets ((s.updateBay b (fun r => r.faulted code)).withdraw b) b .fault
    exact ⟨l, _, _, by rw [h]; rfl⟩
  · obtain ⟨aq, q, h⟩ := State.raise_sets ((s.updateBay b (fun r => r.faulted code)).withdraw b) (.bay b) code.code
    obtain ⟨l, h'⟩ := State.placeLight_sets
      (((s.updateBay b (fun r => r.faulted code)).withdraw b).raise (.bay b) code.code) b .fault
    exact ⟨l, aq, q, by rw [h', h]; rfl⟩

theorem State.loseBay_sets (b : Bay) (code : FaultCode) : ∃ bs l aq q, s.loseBay b code =
    { s with
      bays := bs, drive := { s.drive with waiting := s.drive.waiting.filter (fun r => r.bay != b) }
      link := l, aq := aq, rlc := { s.rlc with service := q } } := by
  obtain ⟨l, aq, q, h⟩ := State.faultBay_sets (s.updateBay b BayRecord.noBike) b code false
  exact ⟨_, l, aq, q, by rw [State.loseBay, h]; rfl⟩

theorem State.handReturn_sets (b : Bay) (failed : Bool) :
    ∃ st aq q, s.handReturn b failed = { s with store := st, aq := aq, rlc := { s.rlc with service := q } } :=
  s.handOver_sets _ _

theorem State.failDocking_sets (b : Bay) (code : FaultCode) : ∃ bs d l st aq q, s.failDocking b code =
    { s with
      bays := bs, drive := { s.drive with waiting := d }, link := l, store := st, aq := aq
      rlc := { s.rlc with service := q } } := by
  unfold State.failDocking
  obtain ⟨st, aq, q, h⟩ := s.handReturn_sets b true
  rw [h]
  obtain ⟨l, aq', q', h'⟩ := State.faultBay_sets _ b code (code == .driverFault)
  exact ⟨_, _, l, st, aq', q', by rw [h']⟩

theorem State.endTagRead_sets (b : Bay) : ∃ bs d l st aq q, s.endTagRead b =
    { s with
      bays := bs, drive := { s.drive with waiting := d }, link := l, store := st, aq := aq
      rlc := { s.rlc with service := q } } := by
  unfold State.endTagRead
  dsimp only
  split
  · split
    · obtain ⟨bs, d, l, st, aq, q, h⟩ := State.failDocking_sets
        (s.updateBay b (fun x => { x with tagRead := none, failedDock := none })) b ‹FaultCode›
      exact ⟨bs, d, l, st, aq, q, by rw [h]; rfl⟩
    · obtain ⟨st, aq, q, h⟩ := State.handReturn_sets
        (s.updateBay b (fun x => { x with tagRead := none, failedDock := none })) b false
      rw [h]
      exact ⟨_, _, _, _, _, _, rfl⟩
  · exact ⟨_, _, _, _, _, _, rfl⟩
  · split
    · exact ⟨_, _, _, _, _, _, rfl⟩
    · exact ⟨_, _, _, _, _, _, rfl⟩
  · exact ⟨_, _, _, _, _, _, rfl⟩

theorem State.tagAttempt_sets (b : Bay) (n : Nat) (answer : Option (BikeId × BikeClass)) :
    ∃ bs d l st aq q, s.tagAttempt b n answer =
      { s with
        bays := bs, drive := { s.drive with waiting := d }, link := l, store := st, aq := aq
        rlc := { s.rlc with service := q } } := by
  unfold State.tagAttempt
  split
  · obtain ⟨bs, d, l, st, aq, q, h⟩ := State.endTagRead_sets (s.updateBay b _) b
    exact ⟨bs, d, l, st, aq, q, by rw [h]; rfl⟩
  · split
    · exact ⟨_, _, _, _, _, _, rfl⟩
    · obtain ⟨aq, q, h⟩ := State.raise_sets (s.updateBay b BayRecord.noBike) (.bay b) .tagUnread
      rw [h]
      obtain ⟨bs, d, l, st, aq', q', h'⟩ := State.endTagRead_sets _ b
      exact ⟨bs, d, l, st, aq', q', by rw [h']; rfl⟩

theorem State.startRental_sets (b : Bay) (late : Bool) : ∃ t bs st aq q, s.startRental b late =
    { s with table := t, bays := bs, store := st, aq := aq, rlc := { s.rlc with service := q } } := by
  unfold State.startRental
  split
  · obtain ⟨st, aq, q, h⟩ := State.handOver_sets s false (.start b _ (s.bay b).bikeId (s.bay b).bikeClass late)
    rw [h]
    exact ⟨_, _, _, _, _, rfl⟩
  · exact ⟨_, _, _, _, _, rfl⟩

theorem State.withdrawal_sets (b : Bay) : ∃ t bs d r l st aq q, s.withdrawal b =
    { s with
      table := t, bays := bs, drive := d, run := r, link := l, store := st, aq := aq
      rlc := { s.rlc with service := q } } := by
  unfold State.withdrawal
  dsimp only
  obtain ⟨t, bs, st, aq, q, h⟩ := State.startRental_sets (s.updateBay b (fun r => { r with take := none })) b false
  rw [h]
  obtain ⟨l, h2⟩ := State.placeLight_sets (State.updateBay _ b (fun r => { r.noBike with state := .empty })) b .shut
  rw [h2]
  obtain ⟨bs', d, r, h3⟩ := State.tryDock_sets _ b
  exact ⟨t, bs', d, r, l, st, aq, q, by rw [h3]; rfl⟩

theorem State.beginRelatch_sets (b : Bay) (cause : RelatchCause) : ∃ d r l, s.beginRelatch b cause =
    { s with
      bays := s.bays.set b { s.bay b with state := .relatching, cause := some cause, take := none }
      drive := d, run := r, link := l } := by
  unfold State.beginRelatch
  obtain ⟨d, r, h⟩ := State.requestRun_sets
    (s.updateBay b (fun r => { r with state := .relatching, cause := some cause, take := none })) b (.role .relatch)
  rw [h]
  obtain ⟨l, h'⟩ := State.placeLight_sets _ b .shut
  exact ⟨d, r, l, by rw [h']; rfl⟩

theorem State.lapseClaim_sets (t : TokenId) (reason : LapseReason) : ∃ tb p a, s.lapseClaim t reason =
    { s with table := tb, rlc := { s.rlc with protocol := p, attempt := a } } := by
  unfold State.lapseClaim
  obtain ⟨p, a, h⟩ := State.queueProtocol_sets (s.removeHeld t) (.lapse t reason)
  exact ⟨_, p, a, by rw [h]; rfl⟩

theorem State.lapseBay_sets (b : Bay) : ∃ t bs st aq p q a, s.lapseBay b =
    { s with
      table := t, bays := bs, store := st, aq := aq
      rlc := { s.rlc with protocol := p, service := q, attempt := a } } := by
  unfold State.lapseBay
  split
  · obtain ⟨st, aq, q, h⟩ := State.handOver_sets s false (.lapse b _ (s.bay b).bikeId (s.bay b).bikeClass _)
    rw [h]
    obtain ⟨t, p, a, h'⟩ := State.lapseClaim_sets _ _ _
    rw [h']
    exact ⟨_, _, _, _, _, _, _, rfl⟩
  · exact ⟨_, _, _, _, _, _, _, rfl⟩

theorem tryDockAll_sets (l : List Bay) : ∀ s : State, ∃ bs d r,
    l.foldl (fun x b => x.tryDock b) s = { s with bays := bs, drive := d, run := r } := by
  induction l with
  | nil => exact fun s => ⟨_, _, _, rfl⟩
  | cons b rest ih =>
    intro s
    obtain ⟨bs, d, r, h⟩ := s.tryDock_sets b
    obtain ⟨bs', d', r', h'⟩ := ih (s.tryDock b)
    exact ⟨bs', d', r', by rw [List.foldl_cons, h', h]⟩

theorem State.drainAndTell_sets : ∃ bs d r st aq q, s.drainAndTell =
    { s with bays := bs, drive := d, run := r, store := st, aq := aq, rlc := { s.rlc with service := q } } := by
  unfold State.drainAndTell
  dsimp only
  obtain ⟨st, aq, q, h⟩ := s.drain_sets
  rw [h]
  obtain ⟨bs, d, r, h'⟩ := tryDockAll_sets _ _
  exact ⟨bs, d, r, st, aq, q, by rw [h']⟩

theorem State.clearSegment_sets (g : Nat) : ∃ bs d r st aq q, s.clearSegment g =
    { s with bays := bs, drive := d, run := r, store := st, aq := aq, rlc := { s.rlc with service := q } } := by
  unfold State.clearSegment
  dsimp only
  split
  · obtain ⟨bs, d, r, st, aq, q, h⟩ := State.drainAndTell_sets _
    exact ⟨bs, d, r, st, aq, q, by rw [h]; rfl⟩
  · exact ⟨_, _, _, _, _, _, rfl⟩

/-! ### Claims -/

theorem State.giveBack_sets : ∃ bs, s.giveBack = { s with bays := bs } := by
  unfold State.giveBack
  split
  · split <;> exact ⟨_, rfl⟩
  · exact ⟨_, rfl⟩

theorem State.claimOver_sets (v : Verdict) : ∃ bs l, s.claimOver v =
    { s with bays := bs, tap := { s.tap with phase := .verdict, verdict := some v }, link := l } := by
  obtain ⟨bs, h⟩ := s.giveBack_sets
  exact ⟨bs, _, by rw [State.claimOver, h]; rfl⟩

theorem State.stopSettle_sets (t : TokenId) : ∃ ce, s.stopSettle t = { s with ce := ce } := by
  unfold State.stopSettle
  split
  · split <;> exact ⟨_, rfl⟩
  · exact ⟨_, rfl⟩

theorem State.startClaim_sets (t : Token) (b : Bay) : ∃ tb bs tap l aq p q a, s.startClaim t b =
    { s with
      table := tb, bays := bs, tap := tap, link := l, aq := aq
      rlc := { s.rlc with protocol := p, service := q, attempt := a } } := by
  unfold State.startClaim
  split
  · dsimp only
    obtain ⟨tb, aq, q, h⟩ := s.insertEntry_sets (s.ownEntry t b)
    rw [h]
    obtain ⟨p, a, h'⟩ := State.queueProtocol_sets _ (.claim t.id b (s.ownExpiry t))
    rw [h']
    exact ⟨_, _, _, _, _, _, _, _, rfl⟩
  · obtain ⟨bs, l, h⟩ := s.claimOver_sets .busy
    exact ⟨_, bs, _, l, _, _, _, _, by rw [h]⟩

theorem State.select_sets (t : Token) : ∃ tb bs tap l aq p q a d, s.select t =
    { s with
      table := tb, bays := bs, tap := tap, link := l, aq := aq, drive := { s.drive with waiting := d }
      rlc := { s.rlc with protocol := p, service := q, attempt := a } } := by
  unfold State.select
  split
  · exact ⟨_, _, _, _, _, _, _, _, _, rfl⟩
  · dsimp only
    obtain ⟨tb, bs, tap, l, aq, p, q, a, h⟩ := State.startClaim_sets (State.reserve _ _) t _
    exact ⟨tb, bs, tap, l, aq, p, q, a, _, by rw [h]; rfl⟩

theorem State.handClaim_sets (t : Token) (i : Nat) (b : Bay) : ∃ tb d r, s.handClaim t i b =
    { s with
      table := tb, drive := d, run := r
      bays := s.bays.set b { s.bay b with claim := some t.id, state := .releasing }
      tap := { s.tap with position := i, chosen := some b, rotation := b, phase := .releaseStart } } := by
  unfold State.handClaim
  dsimp only
  obtain ⟨d, r, h⟩ := State.requestRun_sets (State.withdraw _ b) b (.role .release)
  exact ⟨_, d, r, by rw [h]; rfl⟩

theorem State.exhaust_sets (t : Token) : ∃ tb l st aq p q a, s.exhaust t =
    { s with
      table := tb, link := l, store := st, aq := aq
      tap := { s.tap with phase := .verdict, verdict := some .bayFault }
      rlc := { s.rlc with protocol := p, service := q, attempt := a } } := by
  unfold State.exhaust
  obtain ⟨tb, p, a, h⟩ := s.lapseClaim_sets t.id .noBay
  rw [h]
  obtain ⟨st, aq, q, h'⟩ := State.handOver_sets _ false (.noBay t.id)
  rw [h']
  exact ⟨_, _, _, _, _, _, _, rfl⟩

theorem State.walk_sets (t : Token) (l : List Bay) : ∀ i : Nat, ∃ tb bs d r tap lk st aq p q a, s.walk t i l =
    { s with
      table := tb, bays := bs, drive := d, run := r, tap := tap, link := lk, store := st, aq := aq
      rlc := { s.rlc with protocol := p, service := q, attempt := a } } := by
  induction l with
  | nil =>
    intro i
    obtain ⟨tb, l, st, aq, p, q, a, h⟩ := s.exhaust_sets t
    exact ⟨tb, _, _, _, _, l, st, aq, p, q, a, by rw [State.walk, h]⟩
  | cons b rest ih =>
    intro i
    rw [State.walk]
    split
    · obtain ⟨tb, d, r, h⟩ := s.handClaim_sets t i b
      exact ⟨tb, _, d, r, _, _, _, _, _, _, _, by rw [h]⟩
    · exact ih (i + 1)

theorem State.settled_sets (timer : SettleTimer) : ∃ tb bs d r tap lk st aq p q a, s.settled timer =
    { s with
      ce := { s.ce with settle := none }
      table := tb, bays := bs, drive := d, run := r, tap := tap, link := lk, store := st, aq := aq
      rlc := { s.rlc with protocol := p, service := q, attempt := a } } := by
  unfold State.settled
  dsimp only
  split
  · split
    · unfold State.handFirst
      split
      · split
        · obtain ⟨tb, d, r, h⟩ := State.handClaim_sets _ ‹Token› _ ‹Bay›
          exact ⟨tb, _, d, r, _, _, _, _, _, _, _, by rw [h]; rfl⟩
        · obtain ⟨tb, bs, d, r, tap, lk, st, aq, p, q, a, h⟩ := State.walk_sets _ ‹Token› _ _
          exact ⟨tb, bs, d, r, tap, lk, st, aq, p, q, a, by rw [State.walkOn, h]; rfl⟩
      · obtain ⟨tb, bs, d, r, tap, lk, st, aq, p, q, a, h⟩ := State.walk_sets _ ‹Token› _ _
        exact ⟨tb, bs, d, r, tap, lk, st, aq, p, q, a, by rw [State.walkOn, h]; rfl⟩
    · exact ⟨_, _, _, _, _, _, _, _, _, _, _, rfl⟩
  · exact ⟨_, _, _, _, _, _, _, _, _, _, _, rfl⟩

theorem State.enterOpen_sets (b : Bay) : ∃ tb bs d r tap lk st aq q, s.enterOpen b =
    { s with
      table := tb, bays := bs, drive := d, run := r, tap := tap, link := lk, store := st, aq := aq
      rlc := { s.rlc with service := q } } := by
  unfold State.enterOpen
  dsimp only
  split
  · obtain ⟨l, h⟩ := State.placeLight_sets (State.endTransaction _ (.granted b)) b .opened
    rw [h]
    split
    · exact ⟨_, _, _, _, _, _, _, _, _, rfl⟩
    · obtain ⟨tb, bs, d, r, l', st, aq, q, h'⟩ := State.withdrawal_sets _ b
      exact ⟨tb, bs, d, r, _, l', st, aq, q, by rw [h']; rfl⟩
  · obtain ⟨l, h⟩ := State.placeLight_sets
      (s.updateBay b (fun r => { r with state := .opened, take := some (1000 * s.cfg.takeS) })) b .opened
    rw [h]
    split
    · exact ⟨_, _, _, _, _, _, _, _, _, rfl⟩
    · obtain ⟨tb, bs, d, r, l', st, aq, q, h'⟩ := State.withdrawal_sets _ b
      exact ⟨tb, bs, d, r, _, l', st, aq, q, by rw [h']; rfl⟩

theorem State.failRelease_sets (b : Bay) (res : RunResult) : ∃ tb bs d r tap lk st aq p q a, s.failRelease b res =
    { s with
      table := tb, bays := bs, drive := d, run := r, tap := tap, link := lk, store := st, aq := aq
      rlc := { s.rlc with protocol := p, service := q, attempt := a } } := by
  unfold State.failRelease
  dsimp only
  obtain ⟨l, aq, q, h⟩ := s.faultBay_sets b (releaseFault (s.input b).presence res)
    (releaseFault (s.input b).presence res == .driverFault)
  rw [h]
  split
  · split
    · obtain ⟨tb, bs, d, r, tap, lk, st, aq, p, q, a, h⟩ := State.walk_sets _ ‹Token› _ _
      exact ⟨tb, bs, d, r, tap, lk, st, aq, p, q, a, by rw [State.walkOn, h]⟩
    · exact ⟨_, _, _, _, _, _, _, _, _, _, _, rfl⟩
  · exact ⟨_, _, _, _, _, _, _, _, _, _, _, rfl⟩

theorem State.abort_sets : ∃ tb bs tcu tap lk p a, s.abort =
    { s with
      table := tb, bays := bs, tcu := tcu, tap := tap, link := lk
      rlc := { s.rlc with protocol := p, attempt := a } } := by
  unfold State.abort
  split
  · exact ⟨_, _, _, _, _, _, _, rfl⟩
  · exact ⟨_, _, _, _, _, _, _, rfl⟩
  · split
    · obtain ⟨p, a, h⟩ := State.removeProtocol_sets (s.updateEntry _ _) (Frame.isClaimFor _)
      rw [State.withdrawClaim, h]
      obtain ⟨bs, l, h'⟩ := State.claimOver_sets _ .postClosed
      exact ⟨_, bs, _, _, l, p, a, by rw [h']; rfl⟩
    · obtain ⟨bs, l, h⟩ := s.claimOver_sets .postClosed
      exact ⟨_, bs, _, _, l, _, _, by rw [h]⟩
  · exact ⟨_, _, _, _, _, _, _, rfl⟩

theorem State.decideObject_sets (t : TokenId) (c : Addr) (reason : ObjectReason) : ∃ ce aq p q a,
    s.decideObject t c reason =
      { s with ce := ce, aq := aq, rlc := { s.rlc with protocol := p, service := q, attempt := a } } := by
  unfold State.decideObject
  split
  · exact ⟨_, _, _, _, _, rfl⟩
  · split
    · obtain ⟨p, a, h⟩ := s.queueProtocol_sets (.object t c reason)
      rw [h]
      exact ⟨_, _, _, _, _, rfl⟩
    · obtain ⟨aq, q, h⟩ := s.raise_sets .line .objectionDropped
      exact ⟨_, aq, _, q, _, by rw [h]⟩

theorem State.suppress_sets (t : TokenId) (c : Addr) : ∃ ce p a, s.suppress t c =
    { s with ce := ce, rlc := { s.rlc with protocol := p, attempt := a } } := by
  unfold State.suppress
  split
  · obtain ⟨p, a, h⟩ := s.removeProtocol_sets (Frame.isObjectFor t c)
    rw [h]
    exact ⟨_, _, _, rfl⟩
  · exact ⟨_, _, _, rfl⟩

theorem State.takeClaim_sets (c : Addr) (t : TokenId) (b : Bay) (x : Stamp) : ∃ tb ce bs tap lk aq p q a,
    s.takeClaim c t b x =
      { s with
        table := tb, ce := ce, bays := bs, tap := tap, link := lk, aq := aq
        rlc := { s.rlc with protocol := p, service := q, attempt := a } } := by
  have object (reason : ObjectReason) : ∃ tb ce bs tap lk aq p q a, s.decideObject t c reason =
      { s with
        table := tb, ce := ce, bays := bs, tap := tap, link := lk, aq := aq
        rlc := { s.rlc with protocol := p, service := q, attempt := a } } := by
    obtain ⟨ce, aq, p, q, a, h⟩ := s.decideObject_sets t c reason
    exact ⟨_, ce, _, _, _, aq, p, q, a, by rw [h]⟩
  unfold State.takeClaim
  split
  · obtain ⟨tb, aq, q, h⟩ := s.insertEntry_sets ⟨t, .peerClaimed, some c, some b, x, false⟩
    exact ⟨tb, _, _, _, _, aq, _, q, _, by rw [h]⟩
  · split
    · dsimp only
      obtain ⟨p, a, h⟩ := State.removeProtocol_sets
        (s.updateEntry t (fun _ => some ⟨t, .peerClaimed, some c, some b, x, false⟩)) (Frame.isClaimFor t)
      rw [State.withdrawClaim, h]
      split
      · obtain ⟨bs, l, h'⟩ := State.claimOver_sets _ .claimedElsewhere
        exact ⟨_, _, bs, _, l, _, p, _, a, by rw [h']; rfl⟩
      · exact ⟨_, _, _, _, _, _, p, _, a, rfl⟩
    · exact object .spent
    · exact object .spent
    · exact object .spent
    · split
      · exact ⟨_, _, _, _, _, _, _, _, _, rfl⟩
      · exact object .spent
    · exact object .void
    · exact object .revoked

theorem State.takeObject_sets (t : TokenId) (c : Addr) : ∃ tb ce bs tap lk aq p q a, s.takeObject t c =
    { s with
      table := tb, ce := ce, bays := bs, tap := tap, link := lk, aq := aq
      rlc := { s.rlc with protocol := p, service := q, attempt := a } } := by
  have plain : ∃ tb ce bs tap lk aq p q a, s.suppress t c =
      { s with
        table := tb, ce := ce, bays := bs, tap := tap, link := lk, aq := aq
        rlc := { s.rlc with protocol := p, service := q, attempt := a } } := by
    obtain ⟨ce, p, a, h⟩ := s.suppress_sets t c
    exact ⟨_, ce, _, _, _, _, p, _, a, by rw [h]⟩
  have late : ∃ tb ce bs tap lk aq p q a, (s.raise .table .lateObjection).suppress t c =
      { s with
        table := tb, ce := ce, bays := bs, tap := tap, link := lk, aq := aq
        rlc := { s.rlc with protocol := p, service := q, attempt := a } } := by
    obtain ⟨aq, q, h⟩ := s.raise_sets .table .lateObjection
    rw [h]
    obtain ⟨ce, p, a, h'⟩ := State.suppress_sets _ t c
    exact ⟨_, ce, _, _, _, aq, p, q, a, by rw [h']⟩
  unfold State.takeObject
  split
  · exact plain
  · dsimp only
    split
    · split
      · obtain ⟨ce, h⟩ := State.stopSettle_sets (s.updateEntry t (fun x => some { x with status := .void })) t
        rw [h]
        obtain ⟨ce', p, a, h'⟩ := State.suppress_sets _ t c
        rw [h']
        split
        · obtain ⟨bs, l, h2⟩ := State.claimOver_sets _ .objected
          exact ⟨_, _, bs, _, l, _, p, _, a, by rw [h2]; rfl⟩
        · exact ⟨_, _, _, _, _, _, p, _, a, rfl⟩
      · exact plain
    · split
      · exact late
      · exact plain
    · split
      · exact late
      · exact plain
    · split
      · obtain ⟨ce, p, a, h⟩ := State.suppress_sets (s.updateEntry t (fun x => some { x with status := .void })) t c
        exact ⟨_, ce, _, _, _, _, p, _, a, by rw [h]; rfl⟩
      · exact plain
    · exact plain
    · exact plain
    · exact plain

theorem State.takeRevoke_sets (t : TokenId) (x : Stamp) : ∃ tb ce bs tap lk aq p q a, s.takeRevoke t x =
    { s with
      table := tb, ce := ce, bays := bs, tap := tap, link := lk, aq := aq
      rlc := { s.rlc with protocol := p, service := q, attempt := a } } := by
  unfold State.takeRevoke
  split
  · obtain ⟨tb, aq, q, h⟩ := s.insertEntry_sets ⟨t, .revoked, none, none, x, false⟩
    exact ⟨tb, _, _, _, _, aq, _, q, _, by rw [h]⟩
  · dsimp only
    have marked (e : Entry) : ∃ tb ce bs tap lk aq p q a,
        (if e.revokedLate = true then
            s.updateEntry t (fun x_1 => some { x_1 with revokedLate := true, expiry := laterStamp x_1.expiry x })
          else (s.updateEntry t (fun x_1 => some { x_1 with revokedLate := true, expiry := laterStamp x_1.expiry x })).raise
            .table .revokedLate) =
          { s with
            table := tb, ce := ce, bays := bs, tap := tap, link := lk, aq := aq
            rlc := { s.rlc with protocol := p, service := q, attempt := a } } := by
      split
      · exact ⟨_, _, _, _, _, _, _, _, _, rfl⟩
      · obtain ⟨aq, q, h⟩ := State.raise_sets (s.updateEntry t
          (fun x_1 => some { x_1 with revokedLate := true, expiry := laterStamp x_1.expiry x })) .table .revokedLate
        exact ⟨_, _, _, _, _, aq, _, q, _, by rw [h]; rfl⟩
    split
    · exact ⟨_, _, _, _, _, _, _, _, _, rfl⟩
    · exact ⟨_, _, _, _, _, _, _, _, _, rfl⟩
    · exact ⟨_, _, _, _, _, _, _, _, _, rfl⟩
    · obtain ⟨p, a, h⟩ := State.removeProtocol_sets (s.updateEntry t (fun y => some (y.revoke x))) (Frame.isClaimFor t)
      rw [State.withdrawClaim, h]
      split
      · obtain ⟨bs, l, h'⟩ := State.claimOver_sets _ .revoked
        exact ⟨_, _, bs, _, l, _, p, _, a, by rw [h']; rfl⟩
      · exact ⟨_, _, _, _, _, _, p, _, a, rfl⟩
    · obtain ⟨ce, h⟩ := State.stopSettle_sets (s.updateEntry t (fun y => some (y.revoke x))) t
      rw [h]
      split
      · obtain ⟨bs, l, h'⟩ := State.claimOver_sets _ .revoked
        exact ⟨_, _, bs, _, l, _, _, _, _, by rw [h']; rfl⟩
      · exact ⟨_, _, _, _, _, _, _, _, _, rfl⟩
    · exact marked _
    · exact marked _

theorem State.claimEchoed_sets (t : TokenId) : ∃ tb tap, s.claimEchoed t =
    { s with table := tb, ce := { s.ce with settle := some ⟨s.cfg.settleMs, t⟩ }, tap := tap } := by
  unfold State.claimEchoed
  dsimp only
  split <;> exact ⟨_, _, rfl⟩

theorem State.claimDropped_sets (t : TokenId) : ∃ tb bs tap lk, s.claimDropped t =
    { s with table := tb, bays := bs, tap := tap, link := lk } := by
  unfold State.claimDropped
  dsimp only
  split
  · obtain ⟨bs, l, h⟩ := State.claimOver_sets (s.updateEntry t _) .lineFault
    exact ⟨_, bs, _, l, by rw [h]; rfl⟩
  · exact ⟨_, _, _, _, rfl⟩

end Sys2Proof.Machine
end

