-- ==== Sys2Proof/Laws/Runs.lean ====
section
/-! SUPPORT. Runs: all that a bay's events and the boundaries and ends of runs can change. -/

namespace Sys2Proof.Machine

/-- `t` differs from `s` at most in the table, the bays, the drive, the run, the transaction, the tap link, the store, the
Attention Queue, the transmit queues and the attempt in flight. -/
def BayWork (s t : State) : Prop :=
  ∃ tb bs d r tap lk st aq p q a, t =
    { s with
      table := tb, bays := bs, drive := d, run := r, tap := tap, link := lk, store := st, aq := aq
      rlc := { s.rlc with protocol := p, service := q, attempt := a } }

theorem BayWork.refl (s : State) : BayWork s s := ⟨_, _, _, _, _, _, _, _, _, _, _, rfl⟩

theorem BayWork.trans {s t u : State} (h : BayWork s t) (k : BayWork t u) : BayWork s u := by
  obtain ⟨_, _, _, _, _, _, _, _, _, _, _, rfl⟩ := h
  obtain ⟨_, _, _, _, _, _, _, _, _, _, _, rfl⟩ := k
  exact ⟨_, _, _, _, _, _, _, _, _, _, _, rfl⟩

/-- What bay work leaves alone. -/
theorem BayWork.frame {s t : State} (h : BayWork s t) :
    t.mode = s.mode ∧ t.strap = s.strap ∧ t.image = s.image ∧ t.restartDue = s.restartDue ∧ t.ce = s.ce ∧ t.ju = s.ju ∧
      t.ssu = s.ssu ∧ t.tcu = s.tcu ∧ t.inputs = s.inputs ∧ t.cold = s.cold ∧ t.patrol = s.patrol ∧
      t.delays = s.delays ∧ t.pending = s.pending := by
  obtain ⟨_, _, _, _, _, _, _, _, _, _, _, rfl⟩ := h
  exact ⟨rfl, rfl, rfl, rfl, rfl, rfl, rfl, rfl, rfl, rfl, rfl, rfl, rfl⟩

variable (s : State)

theorem State.updateBay_work (b : Bay) (f : BayRecord → BayRecord) : BayWork s (s.updateBay b f) :=
  ⟨_, _, _, _, _, _, _, _, _, _, _, rfl⟩

theorem State.withdraw_work (b : Bay) : BayWork s (s.withdraw b) := ⟨_, _, _, _, _, _, _, _, _, _, _, rfl⟩

theorem State.setRun_work (r : Option Run) : BayWork s (s.setRun r) := ⟨_, _, _, _, _, _, _, _, _, _, _, rfl⟩

theorem State.setDrive_work (d : DriveArbiter) : BayWork s (s.setDrive d) := ⟨_, _, _, _, _, _, _, _, _, _, _, rfl⟩

theorem State.requestRun_work (b : Bay) (run : RunFor) : BayWork s (s.requestRun b run) := by
  obtain ⟨d, r, h⟩ := s.requestRun_sets b run
  exact ⟨_, _, d, r, _, _, _, _, _, _, _, h⟩

theorem State.grant_work : BayWork s s.grant := by
  obtain ⟨d, r, h⟩ := s.grant_sets
  exact ⟨_, _, d, r, _, _, _, _, _, _, _, h⟩

theorem State.raise_work (src : Source) (code : Code) : BayWork s (s.raise src code) := by
  obtain ⟨aq, q, h⟩ := s.raise_sets src code
  exact ⟨_, _, _, _, _, _, _, aq, _, q, _, h⟩

theorem State.faultBay_work (b : Bay) (code : FaultCode) (raised : Bool) : BayWork s (s.faultBay b code raised) := by
  obtain ⟨l, aq, q, h⟩ := s.faultBay_sets b code raised
  exact ⟨_, _, _, _, _, l, _, aq, _, q, _, h⟩

theorem State.loseBay_work (b : Bay) (code : FaultCode) : BayWork s (s.loseBay b code) := by
  obtain ⟨bs, l, aq, q, h⟩ := s.loseBay_sets b code
  exact ⟨_, bs, _, _, _, l, _, aq, _, q, _, h⟩

theorem State.tryDock_work (b : Bay) : BayWork s (s.tryDock b) := by
  obtain ⟨bs, d, r, h⟩ := s.tryDock_sets b
  exact ⟨_, bs, d, r, _, _, _, _, _, _, _, h⟩

theorem State.enterEmpty_work (b : Bay) : BayWork s (s.enterEmpty b) := by
  obtain ⟨bs, d, r, h⟩ := s.enterEmpty_sets b
  exact ⟨_, bs, d, r, _, _, _, _, _, _, _, h⟩

theorem State.calibrate_work (b : Bay) : BayWork s (s.calibrate b) := by
  obtain ⟨bs, d, r, h⟩ := s.calibrate_sets b
  exact ⟨_, bs, d, r, _, _, _, _, _, _, _, h⟩

theorem State.failDocking_work (b : Bay) (code : FaultCode) : BayWork s (s.failDocking b code) := by
  obtain ⟨bs, d, l, st, aq, q, h⟩ := s.failDocking_sets b code
  exact ⟨_, bs, _, _, _, l, st, aq, _, q, _, h⟩

theorem State.tagAttempt_work (b : Bay) (n : Nat) (answer : Option (BikeId × BikeClass)) :
    BayWork s (s.tagAttempt b n answer) := by
  obtain ⟨bs, d, l, st, aq, q, h⟩ := s.tagAttempt_sets b n answer
  exact ⟨_, bs, _, _, _, l, st, aq, _, q, _, h⟩

theorem State.withdrawal_work (b : Bay) : BayWork s (s.withdrawal b) := by
  obtain ⟨t, bs, d, r, l, st, aq, q, h⟩ := s.withdrawal_sets b
  exact ⟨t, bs, d, r, _, l, st, aq, _, q, _, h⟩

theorem State.startRental_work (b : Bay) (late : Bool) : BayWork s (s.startRental b late) := by
  obtain ⟨t, bs, st, aq, q, h⟩ := s.startRental_sets b late
  exact ⟨t, bs, _, _, _, _, st, aq, _, q, _, h⟩

theorem State.lapseBay_work (b : Bay) : BayWork s (s.lapseBay b) := by
  obtain ⟨t, bs, st, aq, p, q, a, h⟩ := s.lapseBay_sets b
  exact ⟨t, bs, _, _, _, _, st, aq, p, q, a, h⟩

theorem State.enterOpen_work (b : Bay) : BayWork s (s.enterOpen b) := by
  obtain ⟨tb, bs, d, r, tap, lk, st, aq, q, h⟩ := s.enterOpen_sets b
  exact ⟨tb, bs, d, r, tap, lk, st, aq, _, q, _, h⟩

theorem State.failRelease_work (b : Bay) (res : RunResult) : BayWork s (s.failRelease b res) := by
  obtain ⟨tb, bs, d, r, tap, lk, st, aq, p, q, a, h⟩ := s.failRelease_sets b res
  exact ⟨tb, bs, d, r, tap, lk, st, aq, p, q, a, h⟩

/-! ### A run's end -/

theorem State.homed_work (b : Bay) : BayWork s (s.homed b) := by
  unfold State.homed
  split
  · split
    · exact s.updateBay_work b _
    · exact s.faultBay_work _ _ _
  · exact s.requestRun_work _ _

theorem State.calibrationEnd_work (b : Bay) (run : RunFor) (r : RunResult) : BayWork s (s.calibrationEnd b run r) := by
  unfold State.calibrationEnd
  split
  · exact .refl s
  · split
    · exact s.enterEmpty_work b
    · exact s.homed_work b
  · split
    · exact s.faultBay_work _ _ _
    · exact s.faultBay_work _ _ _

theorem State.dockingEnd_work (b : Bay) (r : RunResult) : BayWork s (s.dockingEnd b r) := by
  unfold State.dockingEnd
  dsimp only
  split
  · exact .refl s
  · split
    · exact s.updateBay_work b _
    · exact s.calibrate_work b
  · split
    · exact (s.updateBay_work b _).trans (State.updateBay_work _ b _)
    · exact s.failDocking_work b _

theorem State.patrolEnd_work (b : Bay) (r : RunResult) : BayWork s (s.patrolEnd b r) := by
  unfold State.patrolEnd
  split
  · exact .refl s
  · exact .refl s
  · exact s.faultBay_work _ _ _

theorem State.releaseEnd_work (b : Bay) (r : RunResult) : BayWork s (s.releaseEnd b r) := by
  unfold State.releaseEnd
  split
  · exact .refl s
  · exact s.enterOpen_work b
  · exact s.failRelease_work b _

theorem State.relatchEnd_work (b : Bay) (r : RunResult) : BayWork s (s.relatchEnd b r) := by
  unfold State.relatchEnd
  split
  · exact .refl s
  · exact (s.lapseBay_work b).trans (State.updateBay_work _ b _)
  · exact (s.lapseBay_work b).trans (State.faultBay_work _ _ _ _)

theorem State.reopeningEnd_work (b : Bay) (r : RunResult) : BayWork s (s.reopeningEnd b r) := by
  unfold State.reopeningEnd
  split
  · exact .refl s
  · exact s.enterEmpty_work b
  · exact s.faultBay_work _ _ _

theorem State.serviceEnd_work (b : Bay) (run : RunFor) (r : RunResult) : BayWork s (s.serviceEnd b run r) := by
  unfold State.serviceEnd
  split
  · exact .refl s
  · split
    · split
      · exact s.updateBay_work b _
      · exact s.calibrate_work b
    · exact .refl s
  · exact s.faultBay_work _ _ _

theorem State.takeResult_work (b : Bay) (run : RunFor) (r : RunResult) : BayWork s (s.takeResult b run r) := by
  unfold State.takeResult
  split
  · exact (s.updateBay_work b _).trans (State.requestRun_work _ _ _)
  · exact (s.updateBay_work b _).trans (State.requestRun_work _ _ _)
  · split
    · exact s.calibrationEnd_work b run r
    · exact s.dockingEnd_work b r
    · split
      · exact s.patrolEnd_work b r
      · exact .refl s
    · exact s.releaseEnd_work b r
    · exact s.relatchEnd_work b r
    · exact s.reopeningEnd_work b r
    · exact s.serviceEnd_work b run r
    all_goals exact .refl s

theorem State.takeMeasured_work (r : Run) : BayWork s (s.takeMeasured r) := by
  unfold State.takeMeasured
  split
  · exact s.updateBay_work _ _
  · exact .refl s

/-- The completion of a run is bay work (R143). -/
theorem State.completeRun_work (r : Run) (result : RunResult) : BayWork s (s.completeRun r result) :=
  ((((s.setRun_work none).trans (State.takeMeasured_work _ r)).trans (State.takeResult_work _ _ _ _)).trans
    (State.setDrive_work _ _)).trans (State.grant_work _)

theorem State.driverFails_work (r : Run) : BayWork s (s.driverFails r) :=
  (s.raise_work _ _).trans (State.completeRun_work _ _ _)

theorem State.progress_work (p : Progress) : BayWork s (s.progress p) := by
  cases p
  · exact s.setRun_work _
  · exact s.completeRun_work _ _

/-- The end of the fault-reset pulse is bay work (R140 to R142). -/
theorem State.pulseEnd_work (r : Run) : BayWork s (s.pulseEnd r) := by
  unfold State.pulseEnd
  split
  · exact s.driverFails_work r
  · split
    · exact s.completeRun_work _ _
    · exact s.progress_work _

/-- A boundary of a step is bay work (R141, R142). -/
theorem State.stepBoundary_work (r : Run) (st : Step) : BayWork s (s.stepBoundary r st) := by
  unfold State.stepBoundary
  split
  · exact s.driverFails_work _
  · exact s.progress_work _

/-! ### Sensor changes -/

theorem State.requestStop_work (b : Bay) : BayWork s (s.requestStop b) := by
  unfold State.requestStop
  split
  · split
    · dsimp only
      split
      · split
        · exact s.driverFails_work _
        · exact s.completeRun_work _ _
      · exact s.setRun_work _
    · exact .refl s
  · exact .refl s

theorem State.forceBay_work (b : Bay) : BayWork s (s.forceBay b) :=
  (s.loseBay_work b _).trans (State.requestStop_work _ b)

theorem State.lateWithdrawal_work (b : Bay) : BayWork s (s.lateWithdrawal b) := by
  unfold State.lateWithdrawal
  dsimp only
  have taken := (s.startRental_work b true).trans (State.updateBay_work _ b (fun r => { r.noBike with cause := none }))
  split
  · exact (taken.trans (State.updateBay_work _ b _)).trans (State.requestStop_work _ b)
  · exact (taken.trans (State.withdraw_work _ b)).trans (State.enterEmpty_work _ b)

/-- Presence falling is bay work (R118, R121, R125, R128). -/
theorem State.presenceFell_work (b : Bay) : BayWork s (s.presenceFell b) := by
  unfold State.presenceFell
  split
  · exact s.forceBay_work b
  · split
    · exact s.forceBay_work b
    · exact s.forceBay_work b
    · exact s.withdrawal_work b
    · exact s.lateWithdrawal_work b
    all_goals exact .refl s

theorem State.undock_work (b : Bay) : BayWork s (s.undock b) := by
  unfold State.undock
  split
  · exact (s.calibrate_work b).trans (State.requestStop_work _ b)
  · split
    · exact (s.withdraw_work b).trans (State.enterEmpty_work _ b)
    · exact .refl s

/-- The seat falling is bay work (R118, R120, R121). -/
theorem State.seatFell_work (b : Bay) : BayWork s (s.seatFell b) := by
  unfold State.seatFell
  split
  · exact s.forceBay_work b
  · split
    · exact s.forceBay_work b
    · exact s.forceBay_work b
    · exact s.undock_work b
    all_goals exact .refl s

/-- Home falling and the driver-fault input rising are bay work (R121). -/
theorem State.latchLost_work (b : Bay) (code : FaultCode) : BayWork s (s.latchLost b code) := by
  unfold State.latchLost
  split
  · exact .refl s
  · split
    · exact s.loseBay_work b code
    · exact s.loseBay_work b code
    all_goals exact .refl s

/-! ### Row actions at a bay -/

theorem State.clearFault_work (b : Bay) : BayWork s (s.clearFault b) := by
  unfold State.clearFault
  split
  · obtain ⟨l, h⟩ := State.placeLight_sets (s.updateBay b (fun r => { r with fault := none })) b .shut
    rw [h]
    exact BayWork.trans ⟨_, _, _, _, _, _, _, _, _, _, _, rfl⟩ (State.calibrate_work _ b)
  · exact .refl s

theorem State.openService_work (b : Bay) : BayWork s (s.openService b) := by
  unfold State.openService
  split
  · exact ((s.withdraw_work b).trans (State.updateBay_work _ b _)).trans (State.requestRun_work _ _ _)
  · exact .refl s

theorem State.closeService_work (b : Bay) : BayWork s (s.closeService b) := by
  unfold State.closeService
  split
  · split
    · exact s.requestRun_work _ _
    · exact (s.updateBay_work b _).trans (State.enterEmpty_work _ b)
  · exact .refl s

theorem State.beginRelatch_work (b : Bay) (cause : RelatchCause) : BayWork s (s.beginRelatch b cause) := by
  obtain ⟨d, r, l, h⟩ := s.beginRelatch_sets b cause
  exact ⟨_, _, d, r, _, l, _, _, _, _, _, h⟩

theorem State.relatchOpen_work (b : Bay) : BayWork s (s.relatchOpen b) := by
  unfold State.relatchOpen
  split
  · exact s.beginRelatch_work b _
  · exact .refl s

theorem State.patrolBay_work (b : Bay) : BayWork s (s.patrolBay b) := by
  unfold State.patrolBay
  split
  · exact s.requestRun_work _ _
  · exact .refl s

/-- An act on several bays is bay work where it is at each. -/
theorem foldl_work (f : State → Bay → State) (h : ∀ s b, BayWork s (f s b)) (l : List Bay) :
    ∀ s : State, BayWork s (l.foldl f s) := by
  induction l with
  | nil => exact fun s => .refl s
  | cons b rest ih => exact fun s => (h s b).trans (ih (f s b))

/-! ### RESTART -/

theorem restartLights_sets (l : List Bay) : ∀ s : State, ∃ lk,
    l.foldl (fun x b => x.placeLight b .shut) s = { s with link := lk } := by
  induction l with
  | nil => exact fun s => ⟨_, rfl⟩
  | cons b rest ih =>
    intro s
    obtain ⟨lk, h⟩ := s.placeLight_sets b .shut
    obtain ⟨lk', h'⟩ := ih (s.placeLight b .shut)
    exact ⟨lk', by rw [List.foldl_cons, h', h]⟩

theorem State.restartBays_sets : ∃ bs lk, s.restartBays = { s with bays := bs, link := lk } := by
  unfold State.restartBays
  dsimp only
  obtain ⟨lk, h⟩ := restartLights_sets (allBays.filter (fun b => (s.bay b).state == .faulted)) s
  rw [h]
  exact ⟨_, lk, rfl⟩

/-- What RESTART empties and resets, and what it keeps (R179 items 1 and 2). -/
theorem State.clearForRestart_sets : ∃ bs lk, s.clearForRestart =
    { s with
      rlc := { s.rlc with protocol := [], service := [], attempt := none }
      table := List.replicate Config.tablePlaces none, ce := ⟨none, []⟩, ju := JoinUnit.reset, tcu := ⟨false, none⟩
      tap := TapRecord.reset, run := none, drive := ⟨[], none⟩, delays := [], bays := bs, link := lk
      aq := { s.aq with queue := s.aq.queue.map (fun e => { e with noticed := false }) } } := by
  unfold State.clearForRestart
  dsimp only
  generalize he : State.setDelays _ [] = x
  obtain ⟨bs, lk, h⟩ := x.restartBays_sets
  refine ⟨bs, lk, ?_⟩
  rw [h, ← he]
  simp only [State.clearNoticed, State.setEntries, State.setAq, State.setDelays, State.setDrive, State.setRun,
    State.setLink, State.setTap, State.setTcu, State.setJu, State.setCe, State.setTable, State.setRlc]

end Sys2Proof.Machine
end

