-- ==== Sys2Proof/Laws/Effects.lean ====
section
/-! SUPPORT. Effects: what the shared operations do, one lemma for each: a code raised, a message placed, a run asked for,
an entry changed, a frame taken. -/

namespace Sys2Proof.Machine

open Sys2Proof.Safety

variable (s : State)

/-! ### The check at the end of an event -/

theorem State.closingCheck_sets : ∃ m, s.closingCheck = { s with mode := m } := by
  unfold State.closingCheck
  split
  · exact ⟨_, rfl⟩
  · exact ⟨_, rfl⟩

theorem State.closingCheck_of_not_closing (h : s.mode ≠ .closing) : s.closingCheck = s := by
  unfold State.closingCheck
  rw [if_neg (fun k => h k.1)]

@[simp] theorem State.closingCheck_strap : s.closingCheck.strap = s.strap := by
  obtain ⟨_, e⟩ := s.closingCheck_sets; rw [e]
@[simp] theorem State.closingCheck_image : s.closingCheck.image = s.image := by
  obtain ⟨_, e⟩ := s.closingCheck_sets; rw [e]
@[simp] theorem State.closingCheck_restartDue : s.closingCheck.restartDue = s.restartDue := by
  obtain ⟨_, e⟩ := s.closingCheck_sets; rw [e]
@[simp] theorem State.closingCheck_rlc : s.closingCheck.rlc = s.rlc := by obtain ⟨_, e⟩ := s.closingCheck_sets; rw [e]
@[simp] theorem State.closingCheck_table : s.closingCheck.table = s.table := by
  obtain ⟨_, e⟩ := s.closingCheck_sets; rw [e]
@[simp] theorem State.closingCheck_ce : s.closingCheck.ce = s.ce := by obtain ⟨_, e⟩ := s.closingCheck_sets; rw [e]
@[simp] theorem State.closingCheck_ju : s.closingCheck.ju = s.ju := by obtain ⟨_, e⟩ := s.closingCheck_sets; rw [e]
@[simp] theorem State.closingCheck_ssu : s.closingCheck.ssu = s.ssu := by obtain ⟨_, e⟩ := s.closingCheck_sets; rw [e]
@[simp] theorem State.closingCheck_tcu : s.closingCheck.tcu = s.tcu := by obtain ⟨_, e⟩ := s.closingCheck_sets; rw [e]
@[simp] theorem State.closingCheck_tap : s.closingCheck.tap = s.tap := by obtain ⟨_, e⟩ := s.closingCheck_sets; rw [e]
@[simp] theorem State.closingCheck_link : s.closingCheck.link = s.link := by obtain ⟨_, e⟩ := s.closingCheck_sets; rw [e]
@[simp] theorem State.closingCheck_bays : s.closingCheck.bays = s.bays := by obtain ⟨_, e⟩ := s.closingCheck_sets; rw [e]
@[simp] theorem State.closingCheck_inputs : s.closingCheck.inputs = s.inputs := by
  obtain ⟨_, e⟩ := s.closingCheck_sets; rw [e]
@[simp] theorem State.closingCheck_cold : s.closingCheck.cold = s.cold := by obtain ⟨_, e⟩ := s.closingCheck_sets; rw [e]
@[simp] theorem State.closingCheck_patrol : s.closingCheck.patrol = s.patrol := by
  obtain ⟨_, e⟩ := s.closingCheck_sets; rw [e]
@[simp] theorem State.closingCheck_drive : s.closingCheck.drive = s.drive := by
  obtain ⟨_, e⟩ := s.closingCheck_sets; rw [e]
@[simp] theorem State.closingCheck_run : s.closingCheck.run = s.run := by obtain ⟨_, e⟩ := s.closingCheck_sets; rw [e]
@[simp] theorem State.closingCheck_store : s.closingCheck.store = s.store := by
  obtain ⟨_, e⟩ := s.closingCheck_sets; rw [e]
@[simp] theorem State.closingCheck_aq : s.closingCheck.aq = s.aq := by obtain ⟨_, e⟩ := s.closingCheck_sets; rw [e]
@[simp] theorem State.closingCheck_delays : s.closingCheck.delays = s.delays := by
  obtain ⟨_, e⟩ := s.closingCheck_sets; rw [e]
@[simp] theorem State.closingCheck_pending : s.closingCheck.pending = s.pending := by
  obtain ⟨_, e⟩ := s.closingCheck_sets; rw [e]

/-! ### Bays -/

theorem PerBay.set_set {α : Type} (p : PerBay α) (b : Bay) (x y : α) : (p.set b x).set b y = p.set b y := by
  match b with
  | 0 | 1 | 2 | 3 => rfl

theorem PerBay.set_get {α : Type} (p : PerBay α) (b : Bay) : p.set b (p.get b) = p := by
  match b with
  | 0 | 1 | 2 | 3 => rfl

@[simp] theorem State.bay_updateBay (b c : Bay) (f : BayRecord → BayRecord) :
    (s.updateBay b f).bay c = if c = b then f (s.bay b) else s.bay c := s.setBay_bay b c _

/-- The pieces an update of a bay leaves. -/
theorem State.updateBay_eq (b : Bay) (f : BayRecord → BayRecord) :
    s.updateBay b f = { s with bays := s.bays.set b (f (s.bay b)) } := rfl

/-- A bay looked up in states with the same bays. -/
theorem State.bay_of_bays {s t : State} (h : t.bays = s.bays) (b : Bay) : t.bay b = s.bay b := by
  unfold State.bay; rw [h]

@[simp] theorem State.endTransaction_bay (v : Verdict) (b : Bay) : (s.endTransaction v).bay b = s.bay b := rfl

@[simp] theorem State.placeMessage_bay (m : TapMessage) (b : Bay) : (s.placeMessage m).bay b = s.bay b := rfl

@[simp] theorem State.placeLight_bay (c : Bay) (i : Indication) (b : Bay) : (s.placeLight c i).bay b = s.bay b := by
  obtain ⟨_, e⟩ := s.placeLight_sets c i; rw [e]; rfl

@[simp] theorem State.requestRun_bay (c : Bay) (run : RunFor) (b : Bay) : (s.requestRun c run).bay b = s.bay b := by
  obtain ⟨_, _, e⟩ := s.requestRun_sets c run; rw [e]; rfl

@[simp] theorem State.closingCheck_bay (b : Bay) : s.closingCheck.bay b = s.bay b := State.bay_of_bays s.closingCheck_bays b

@[simp] theorem State.closingCheck_input (b : Bay) : s.closingCheck.input b = s.input b := by
  unfold State.input; rw [s.closingCheck_inputs]

@[simp] theorem State.raise_bay (src : Source) (code : Code) (b : Bay) : (s.raise src code).bay b = s.bay b := by
  obtain ⟨_, _, e⟩ := s.raise_sets src code; rw [e]; rfl

/-! ### Attention -/

theorem attentionPairs_of_aq {s t : State} (h : t.aq = s.aq) : attentionPairs t = attentionPairs s := by
  unfold attentionPairs; rw [h]

theorem State.queueService_aq (f : Frame) : (s.queueService f).aq = s.aq := by
  obtain ⟨_, e⟩ := s.queueService_sets f; rw [e]

/-- An offer changes no pair, no record and no order: it marks the oldest entry at most (R163). -/
theorem State.offerNotice_aq : s.offerNotice.aq.queue.map QueuedAttention.att = s.aq.queue.map QueuedAttention.att ∧
    s.offerNotice.aq.waiting = s.aq.waiting ∧ s.offerNotice.aq.hush = s.aq.hush := by
  unfold State.offerNotice
  split
  · exact ⟨rfl, rfl, rfl⟩
  · rename_i e rest hq
    split
    · refine ⟨?_, ?_, ?_⟩
      · show List.map QueuedAttention.att ({ e with noticed := true } :: rest) = _
        rw [hq]; rfl
      · show (s.queueService _).aq.waiting = _
        rw [s.queueService_aq]
      · show (s.queueService _).aq.hush = _
        rw [s.queueService_aq]
    · exact ⟨rfl, rfl, rfl⟩

theorem State.offerNotice_pairs : attentionPairs s.offerNotice = attentionPairs s := by
  unfold attentionPairs
  rw [s.offerNotice_aq.1, s.offerNotice_aq.2.1]

theorem Attention.isPair_iff {a : Attention} {src : Source} {code : Code} :
    a.isPair src code = true ↔ (a.source, a.code) = (src, code) := by
  simp [Attention.isPair]

/-- A code raised in a working mode on a source that is not masked is recorded (R161). -/
theorem State.raise_records (src : Source) (code : Code) (hm : s.mode.working = true) (hs : s.masked src = false) :
    (src, code) ∈ attentionPairs (s.raise src code) := by
  unfold State.raise
  rw [if_neg (by simp [hm, hs])]
  split
  · rename_i h
    obtain ⟨e, he, hp⟩ := List.any_eq_true.mp h
    refine List.mem_map.mpr ⟨e.att.again, List.mem_append_left _ (List.mem_map.mpr ⟨{ e with att := e.att.again }, ?_, rfl⟩),
      Attention.isPair_iff.mp hp⟩
    exact List.mem_map.mpr ⟨e, he, if_pos hp⟩
  · split
    · rename_i h
      obtain ⟨a, ha, hp⟩ := List.any_eq_true.mp h
      exact List.mem_map.mpr ⟨a.again, List.mem_append_right _ (List.mem_map.mpr ⟨a, ha, if_pos hp⟩),
        Attention.isPair_iff.mp hp⟩
    · split
      · unfold State.enterAttention
        rw [State.offerNotice_pairs]
        refine List.mem_map.mpr ⟨⟨src, code, s.ssu.stamp, 1⟩, List.mem_append_left _ ?_, rfl⟩
        exact List.mem_map.mpr ⟨⟨_, false⟩, List.mem_append_right _ (List.mem_cons_self ..), rfl⟩
      · exact List.mem_map.mpr ⟨⟨src, code, s.ssu.stamp, 1⟩,
          List.mem_append_right _ (List.mem_append_right _ (List.mem_cons_self ..)), rfl⟩

/-- A code raised removes no record (R161). -/
theorem State.raise_keeps (src : Source) (code : Code) (p : Source × Code) (h : p ∈ attentionPairs s) :
    p ∈ attentionPairs (s.raise src code) := by
  have same : ∀ a : Attention, ((if a.isPair src code then a.again else a).source,
      (if a.isPair src code then a.again else a).code) = (a.source, a.code) := by
    intro a
    split <;> rfl
  unfold State.raise
  split
  · exact h
  · split
    · unfold attentionPairs at h ⊢
      show p ∈ (List.map _ (List.map _ s.aq.queue) ++ s.aq.waiting).map _
      rw [List.map_append, List.mem_append] at h ⊢
      refine h.imp (fun h => ?_) id
      rw [List.map_map, List.mem_map] at h
      obtain ⟨e, he, rfl⟩ := h
      rw [List.map_map, List.map_map, List.mem_map]
      refine ⟨e, he, ?_⟩
      show ((if e.att.isPair src code then ({ e with att := e.att.again } : QueuedAttention) else e).att.source, _) = _
      dsimp only [Function.comp_apply]
      split <;> rfl
    · split
      · unfold attentionPairs at h ⊢
        show p ∈ (List.map QueuedAttention.att s.aq.queue ++ List.map _ s.aq.waiting).map _
        rw [List.map_append, List.mem_append] at h ⊢
        refine h.imp id (fun h => ?_)
        obtain ⟨a, ha, rfl⟩ := List.mem_map.mp h
        rw [List.map_map]
        exact List.mem_map.mpr ⟨a, ha, same a⟩
      · split
        · unfold State.enterAttention
          rw [State.offerNotice_pairs]
          unfold attentionPairs at h ⊢
          show p ∈ (List.map QueuedAttention.att (s.aq.queue ++ _) ++ s.aq.waiting).map _
          rw [List.map_append, List.map_append, List.map_append]
          rw [List.map_append, List.mem_append] at h
          exact h.elim (fun h => List.mem_append_left _ (List.mem_append_left _ h)) (List.mem_append_right _)
        · unfold attentionPairs at h ⊢
          show p ∈ (List.map QueuedAttention.att s.aq.queue ++ (s.aq.waiting ++ _)).map _
          rw [← List.append_assoc, List.map_append]
          exact List.mem_append_left _ h

/-! ### Messages -/

theorem TapLink.start_told (l : TapLink) (m : TapMessage) (h : m ∈ l.list ∨ l.sending = some m) :
    m ∈ l.start.list ∨ l.start.sending = some m := by
  unfold TapLink.start
  split
  · rename_i x rest hs hl
    rcases h with h | h
    · rw [hl] at h
      rcases List.mem_cons.mp h with h | h
      · exact .inr (by rw [h])
      · exact .inl h
    · rw [hs] at h; cases h
  · exact h

/-- A message placed waits or is being sent (R93). -/
theorem State.placeMessage_told (m : TapMessage) : Told m (s.placeMessage m) :=
  TapLink.start_told _ m (.inl (List.mem_append_right _ (List.mem_cons_self ..)))

theorem State.placeMessage_keeps (m x : TapMessage) (h : Told x s) : Told x (s.placeMessage m) :=
  TapLink.start_told _ x (h.imp (fun k => List.mem_append_left _ k) id)

/-- A light placed waits or is being sent (R93). -/
theorem State.placeLight_told (b : Bay) (i : Indication) : Told (.bayLight b i) (s.placeLight b i) := by
  unfold State.placeLight
  split
  · rename_i h
    obtain ⟨m, hm, hl⟩ := List.any_eq_true.mp h
    exact .inl (List.mem_map.mpr ⟨m, hm, if_pos hl⟩)
  · exact s.placeMessage_told _

/-- A light replaces lights only, so a VERDICT that waits or is being sent stays (R93). -/
theorem State.placeLight_keeps (b : Bay) (i : Indication) (v : Verdict) (w : VerdictFor) (h : Told (.verdict v w) s) :
    Told (.verdict v w) (s.placeLight b i) := by
  unfold State.placeLight
  split
  · exact h.imp (fun k => List.mem_map.mpr ⟨_, k, if_neg (by simp [TapMessage.lightOf])⟩) id
  · exact s.placeMessage_keeps _ _ h

theorem State.endTransaction_told (v : Verdict) : Told (.verdict v .transaction) (s.endTransaction v) :=
  State.placeMessage_told _ _

theorem Told.of_link {m : TapMessage} {s t : State} (h : Told m s) (e : t.link = s.link) : Told m t := by
  unfold Told; rw [e]; exact h

/-! ### Requests -/

theorem State.wantsDrive_false_iff (b : Bay) :
    s.wantsDrive b = false ↔ s.requestWaits b = false ∧ s.runsAt b = false := by
  unfold State.wantsDrive; simp

/-- What a bay's request depends on. -/
theorem State.driveRequest_of {s t : State} (hd : t.drive.waiting = s.drive.waiting) (hr : t.run = s.run) (b : Bay) :
    t.driveRequest b = s.driveRequest b := by
  unfold State.driveRequest; rw [hd, hr]

theorem Asks.of {s t : State} {b : Bay} {run : RunFor} (h : Asks b run s) (hd : t.drive.waiting = s.drive.waiting)
    (hr : t.run = s.run) : Asks b run t := by
  unfold Asks; rw [State.driveRequest_of hd hr]; exact h

theorem State.wantsDrive_of {s t : State} (hd : t.drive.waiting = s.drive.waiting) (hr : t.run = s.run) (b : Bay) :
    t.wantsDrive b = s.wantsDrive b := by
  unfold State.wantsDrive State.requestWaits State.runsAt; rw [hd, hr]

/-- A bay that had no request has asked for the run it requests: its request waits, or it is granted at once (R145,
R146). -/
theorem State.requestRun_asks (b : Bay) (run : RunFor) (h : s.wantsDrive b = false) : Asks b run (s.requestRun b run) := by
  have hw : s.drive.waiting.find? (fun r => r.bay == b) = none := by
    have := (s.wantsDrive_false_iff b).mp h
    unfold State.requestWaits at this
    rw [List.find?_eq_none]
    intro x hx hb
    have := List.any_eq_false.mp this.1 x hx
    exact this hb
  unfold State.requestRun
  rw [if_neg (by rw [h]; exact Bool.false_ne_true)]
  unfold State.grant
  split
  · rename_i r rest hh hq
    unfold Asks State.driveRequest
    simp only [State.setDrive, State.setRun] at hq ⊢
    cases hl : s.drive.waiting with
    | nil =>
      rw [hl] at hq
      cases hq
      right
      simp [State.startedRun]
    | cons x xs =>
      rw [hl] at hq hw
      cases hq
      left
      rw [List.find?_cons] at hw
      split at hw
      · cases hw
      · simp [List.append_eq, List.find?_append, hw]
  · left
    unfold State.driveRequest
    simp only [State.setDrive]
    rw [List.find?_append, hw]
    simp

/-- A request of one bay leaves what another bay asks for: it is granted at most (R146). -/
theorem State.requestRun_other (b c : Bay) (run : RunFor) (hc : c ≠ b) (hd : DriveLaw s) :
    (s.requestRun b run).wantsDrive c = s.wantsDrive c := by
  unfold State.requestRun
  split
  · rfl
  · unfold State.grant
    split
    · rename_i r rest hh hq
      have hrun : s.run = none := by
        have := hd.2.1
        simp only [State.setDrive] at hh
        rw [hh] at this
        cases hr : s.run with
        | none => rfl
        | some x => rw [hr] at this; cases this
      unfold State.wantsDrive State.requestWaits State.runsAt
      simp only [State.setDrive, State.setRun, State.startedRun] at hq ⊢
      have : (s.drive.waiting ++ [(⟨b, run⟩ : Request)]).any (fun r => r.bay == c) = s.drive.waiting.any (fun r => r.bay == c) := by
        simp [List.any_append, Ne.symm hc]
      rw [← this, hq, List.any_cons, hrun]
      cases h1 : rest.any (fun r => r.bay == c) <;> simp
    · unfold State.wantsDrive State.requestWaits State.runsAt
      have : (b == c) = false := by simp [Ne.symm hc]
      simp [State.setDrive, List.any_append, this]

/-! ### Entries -/

theorem lookupEntry_cons (t : TokenId) (slot : Option Entry) (l : List (Option Entry)) :
    lookupEntry t (slot :: l) = if holdsToken t slot then slot else lookupEntry t l := by
  unfold lookupEntry
  rw [List.find?_cons]
  cases holdsToken t slot <;> rfl

theorem lookupEntry_token {t : TokenId} {e : Entry} : ∀ {l : List (Option Entry)}, lookupEntry t l = some e → e.token = t
  | [], h => by cases h
  | slot :: l, h => by
    rw [lookupEntry_cons] at h
    split at h
    · rename_i k
      rw [h] at k
      simpa [holdsToken] using k
    · exact lookupEntry_token h

/-- The entry found for a token names it (R20). -/
theorem State.entry_token {t : TokenId} {e : Entry} (h : s.entry t = some e) : e.token = t := lookupEntry_token h

theorem lookupEntry_none_iff (t : TokenId) : ∀ l : List (Option Entry),
    lookupEntry t l = none ↔ ∀ slot ∈ l, holdsToken t slot = false
  | [] => ⟨fun _ _ h => (nomatch h), fun _ => rfl⟩
  | slot :: l => by
    rw [lookupEntry_cons]
    cases h : holdsToken t slot with
    | true =>
      cases slot with
      | none => simp [holdsToken] at h
      | some e => simp [h]
    | false => simp [h, lookupEntry_none_iff t l]

/-- An entry changed in place, its token kept: the lookup of its token gives the changed entry and of another what it gave
(R20). -/
theorem State.entry_changed (t u : TokenId) (f : Entry → Entry) (hf : ∀ e, (f e).token = e.token) :
    (s.updateEntry t (fun e => some (f e))).entry u = if u = t then (s.entry t).map f else s.entry u := by
  unfold State.entry State.updateEntry
  simp only [State.setTable]
  induction s.table with
  | nil => split <;> rfl
  | cons slot l ih =>
    rw [List.map_cons, lookupEntry_cons, lookupEntry_cons, lookupEntry_cons, ih]
    cases slot with
    | none => simp [holdsToken]
    | some e =>
      by_cases ht : e.token = t
      · by_cases hu : u = t
        · simp [holdsToken, ht, hu, hf]
        · have : (t == u) = false := by simp [Ne.symm hu]
          simp [holdsToken, ht, hu, hf, this]
      · have : (e.token == t) = false := by simp [ht]
        simp only [holdsToken, this]
        by_cases hu : u = t
        · simp [hu, ht]
        · simp [hu]

/-- An entry removed from a table that holds no token twice: its token is unknown after (R20, R25). -/
theorem State.entry_removed (t : TokenId) (f : Entry → Option Entry) (hl : TableLaw s)
    (hf : ∀ e, s.entry t = some e → f e = none) : (s.updateEntry t f).entry t = none := by
  unfold State.entry at hf ⊢
  rw [lookupEntry_none_iff]
  intro slot hs
  obtain ⟨x, hx, rfl⟩ := List.mem_map.mp hs
  cases x with
  | none => rfl
  | some e =>
    by_cases ht : e.token = t
    · have hfound : lookupEntry t s.table = some e := by
        cases hf' : lookupEntry t s.table with
        | none =>
          have := (lookupEntry_none_iff t _).mp hf' _ hx
          simp [holdsToken, ht] at this
        | some y =>
          obtain ⟨i, hi⟩ := List.getElem?_of_mem hx
          have hy : some y ∈ s.table := by
            unfold lookupEntry at hf'
            cases hh : s.table.find? (holdsToken t) with
            | none => rw [hh] at hf'; cases hf'
            | some z =>
              rw [hh] at hf'
              have : z = some y := hf'
              rw [← this]
              exact List.mem_of_find?_eq_some hh
          obtain ⟨j, hj⟩ := List.getElem?_of_mem hy
          have := hl.2 i j e y hi hj (by rw [ht, lookupEntry_token hf'])
          subst this
          rw [hi] at hj
          cases hj; rfl
      simp [holdsToken, ht, hf e hfound]
    · have : (e.token == t) = false := by simp [ht]
      simp [holdsToken, this]

/-- An update that can only keep or change the token's entry leaves the lookup of another token (R20). -/
theorem State.entry_updateEntry_ne (t u : TokenId) (f : Entry → Option Entry) (hu : u ≠ t)
    (hf : ∀ e e', e.token = t → f e = some e' → e'.token = t) : (s.updateEntry t f).entry u = s.entry u := by
  unfold State.entry State.updateEntry
  simp only [State.setTable]
  induction s.table with
  | nil => rfl
  | cons slot l ih =>
    rw [List.map_cons, lookupEntry_cons, lookupEntry_cons, ih]
    cases slot with
    | none => simp [holdsToken]
    | some e =>
      by_cases ht : e.token = t
      · have h1 : (t == u) = false := by simp [Ne.symm hu]
        cases hfe : f e with
        | none => simp [holdsToken, ht, h1, hfe]
        | some e' => simp [holdsToken, ht, h1, hfe, hf e e' ht hfe]
      · have : (e.token == t) = false := by simp [ht]
        simp [holdsToken, this]

/-- A table update written with the token tested inside (R25). -/
theorem updateTable_eq (t : TokenId) (f : Entry → Option Entry) (l : List (Option Entry)) :
    l.map (fun slot => if holdsToken t slot then slot.bind f else slot) =
      l.map (fun slot => slot.bind (fun e => if e.token = t then f e else some e)) := by
  refine List.map_congr_left (fun slot _ => ?_)
  cases slot with
  | none => simp [holdsToken]
  | some e => by_cases h : e.token = t <;> simp [holdsToken, h]

/-! ### Frames taken -/

theorem working_of {m : PostMode} (h1 : m ≠ .starting) (h2 : m ≠ .configFault) : m.working = true := by
  cases m <;> first | rfl | exact absurd rfl h1 | exact absurd rfl h2

theorem State.hearing_of (f : RowFrame) (h : Heard f s) : s.hearing = true := by
  obtain ⟨h1, h2, _⟩ := h
  simp [State.hearing, h1, h2]

/-- A frame of a kind any station may send that passes the tests of R51 is handed on. -/
theorem State.receive_any {α : Type} (k : FrameKind) (f : RowFrame) (x : α) (payload : Option α) (act : α → State → State)
    (h : TakenFromAny k.rank f s) (hp : payload = some x) (ha : k.allows .all = true) (hg : k.gatewayOnly = false) :
    s.receive k f payload act = act x (heard s) := by
  obtain ⟨hh, hm, hr, hd⟩ := h
  have hw := working_of hh.1 hm
  unfold State.receive
  rw [if_pos (s.hearing_of f hh)]
  dsimp only
  rw [if_neg hh.2.2, hp]
  dsimp only
  rw [if_pos]
  · rfl
  · simp [State.admits, hr, hd, ha, hg, destinationNames, hw]

theorem destinationNames_iff (d : Destination) (a : Addr) : destinationNames d a = true ↔ Reaches d a := by
  cases d <;> simp [destinationNames, Reaches]

/-- A frame of a gateway kind that passes the tests of R51 is handed on. -/
theorem State.receive_gateway {α : Type} (k : FrameKind) (f : RowFrame) (x : α) (payload : Option α)
    (act : α → State → State) (h : TakenFromGateway k.rank f s) (hp : payload = some x) (ha : k.allows f.dest = true) :
    s.receive k f payload act = act x (heard s) := by
  obtain ⟨hh, hm, hr, hs, hd⟩ := h
  have hw := working_of hh.1 hm
  unfold State.receive
  rw [if_pos (s.hearing_of f hh)]
  dsimp only
  rw [if_neg hh.2.2, hp]
  dsimp only
  rw [if_pos]
  · rfl
  · simp [State.admits, hr, hs, ha, (destinationNames_iff _ _).mpr hd, hw]

theorem FrameKind.action_allows (d : Destination) : FrameKind.allows .action d = true := by cases d <;> rfl

/-- A row action whose code is in the mask is answered (R168). -/
theorem State.receiveAction_taken (a : RowAction) (f : RowFrame) (bay : Option Bay) (act : Option Bay → State → State)
    (h : TakenAction a bay f s) : s.receiveAction a f act = (act bay (heard s)).closingCheck := by
  obtain ⟨h1, h2, h3⟩ := h
  unfold State.receiveAction
  rw [s.receive_gateway .action f bay _ _ h1 h2 (FrameKind.action_allows _)]
  exact if_pos h3

/-- A row action whose code is not in the mask changes nothing (R168). -/
theorem State.receiveAction_unmasked (a : RowAction) (f : RowFrame) (bay : Option Bay) (act : Option Bay → State → State)
    (h1 : TakenFromGateway 2 f s) (h2 : readAction f.payload = some bay) (h3 : s.cfg.actionMask.getLsbD a.bit = false) :
    s.receiveAction a f act = heard s := by
  unfold State.receiveAction
  rw [s.receive_gateway .action f bay _ _ h1 h2 (FrameKind.action_allows _)]
  exact if_neg (by show ¬(s.cfg.actionMask.getLsbD a.bit = true); rw [h3]; exact Bool.false_ne_true)

/-! ### Joining and RESTART -/

/-- A bay after another or itself began calibration (R116). -/
theorem State.calibrate_bay (b c : Bay) : (s.calibrate b).bay c =
    if c = b then
      if s.runsAt b = true then { (s.bay b).calibrating with followOn := some .home } else (s.bay b).calibrating
    else s.bay c := by
  unfold State.calibrate
  split
  · rw [State.bay_updateBay]
  · rw [State.requestRun_bay, State.bay_updateBay]

theorem calibrateAll_sets (l : List Bay) : ∀ s : State, ∃ bs d r,
    l.foldl (fun x b => x.calibrate b) s = { s with bays := bs, drive := d, run := r } := by
  induction l with
  | nil => exact fun s => ⟨_, _, _, rfl⟩
  | cons b l ih =>
    intro s
    obtain ⟨bs, d, r, e⟩ := s.calibrate_sets b
    rw [List.foldl_cons, e]
    obtain ⟨bs', d', r', e'⟩ := ih { s with bays := bs, drive := d, run := r }
    exact ⟨bs', d', r', e'⟩

/-- What beginning calibration keeps of a bay is kept by beginning it at several bays. -/
theorem calibrateAll_keeps (l : List Bay) (Q : BayRecord → Prop)
    (hQ : ∀ r, Q r → Q r.calibrating ∧ Q { r.calibrating with followOn := some .home }) :
    ∀ s : State, (∀ b, Q (s.bay b)) → ∀ b, Q ((l.foldl (fun x b => x.calibrate b) s).bay b) := by
  induction l with
  | nil => exact fun s h => h
  | cons a l ih =>
    intro s h
    refine ih _ (fun b => ?_)
    rw [State.calibrate_bay]
    split
    · split
      · exact (hQ _ (h _)).2
      · exact (hQ _ (h _)).1
    · exact h b

theorem calibrateAll_state (l : List Bay) : ∀ (s : State) (b : Bay), (b ∈ l ∨ (s.bay b).state = .calibrating) →
    ((l.foldl (fun x b => x.calibrate b) s).bay b).state = .calibrating := by
  induction l with
  | nil => exact fun s b h => h.resolve_left (fun k => (nomatch k))
  | cons a l ih =>
    intro s b h
    refine ih _ b ?_
    by_cases hb : b ∈ l
    · exact .inl hb
    · right
      rw [State.calibrate_bay]
      split
      · split <;> rfl
      · rename_i hne
        exact h.resolve_left (fun k => (List.mem_cons.mp k).elim hne hb)

theorem calibrateAll_clearPoint (l : List Bay) (b : Bay) :
    ((l.foldl (fun x b => x.calibrate b) s).bay b).clearPoint = (s.bay b).clearPoint := by
  induction l generalizing s with
  | nil => rfl
  | cons a l ih =>
    rw [List.foldl_cons, ih, State.calibrate_bay]
    split
    · rename_i h
      subst h
      split <;> rfl
    · rfl

/-- What the entry to JOINING changes (R175 items 3 to 7). -/
theorem State.enterJoining_sets : ∃ bs d r aq q, s.enterJoining =
    { s with
      mode := .joining, bays := bs, drive := d, run := r, aq := aq
      patrol := if s.cfg.patrolMin = 0 then none else some (60000 * s.cfg.patrolMin)
      ju := { s.ju with join := .gapWait }, rlc := { s.rlc with service := q } } := by
  unfold State.enterJoining
  dsimp only
  obtain ⟨bs, d, r, h⟩ := calibrateAll_sets (s.setMode .joining).fittedBays (s.setMode .joining)
  rw [h]
  obtain ⟨aq, q, h'⟩ := State.offerNotice_sets _
  exact ⟨bs, d, r, aq, q, h'⟩

/-- The bays at the entry to JOINING: the fitted ones begin calibration (R175). -/
theorem State.enterJoining_bay (b : Bay) : s.enterJoining.bay b =
    (s.fittedBays.foldl (fun x b => x.calibrate b) (s.setMode .joining)).bay b := by
  unfold State.enterJoining
  dsimp only
  obtain ⟨aq, q, h⟩ := State.offerNotice_sets _
  rw [h]
  rfl

theorem State.restartBays_bay (b : Bay) : s.restartBays.bay b = (s.bay b).restarted := by
  have lit : ∀ (l : List Bay) (s : State), (l.foldl (fun x b => x.placeLight b .shut) s).bays = s.bays := by
    intro l
    induction l with
    | nil => exact fun s => rfl
    | cons a l ih =>
      intro s
      rw [List.foldl_cons, ih]
      obtain ⟨_, e⟩ := s.placeLight_sets a .shut
      rw [e]
  unfold State.restartBays
  dsimp only
  have h : ∀ x : State, x.bays = s.bays →
      (allBays.foldl (fun x b => x.updateBay b BayRecord.restarted) x).bay b = (s.bay b).restarted := by
    intro x hx
    unfold State.bay
    rw [← hx]
    match b with
    | 0 | 1 | 2 | 3 => rfl
  exact h _ (lit _ _)

/-- A bay after RESTART cleared the post (R113). -/
theorem State.clearForRestart_bay (b : Bay) : s.clearForRestart.bay b = (s.bay b).restarted := by
  unfold State.clearForRestart
  dsimp only
  generalize he : State.setDelays _ [] = x
  have h1 : x.bays = s.bays := by rw [← he]; simp
  have h2 := x.restartBays_bay b
  rw [State.bay_of_bays h1 b] at h2
  exact h2

/-! ### Withdrawn frames and reservations -/

/-- A search finds the first frame `p` names, and what is left without it (R45). -/
theorem without_eraseIdx (p : Frame → Bool) : ∀ (l : List Queued) (i : Nat), l.findIdx? (fun x => p x.frame) = some i →
    Without (fun f => p f = true) l (l.eraseIdx i)
  | [], i, h => by simp at h
  | q :: l, i, h => by
    rw [List.findIdx?_cons] at h
    split at h
    · rename_i hq
      cases h
      refine ⟨fun before after x hl hx hb => ?_, fun hn => absurd hq (hn q (List.mem_cons_self ..))⟩
      cases before with
      | nil =>
        rw [List.nil_append] at hl ⊢
        cases hl
        rfl
      | cons y before =>
        rw [List.cons_append] at hl
        cases hl
        exact absurd hq (hb q (List.mem_cons_self ..))
    · rename_i hq
      obtain ⟨j, hj, rfl⟩ := Option.map_eq_some_iff.mp h
      have ih := without_eraseIdx p l j hj
      refine ⟨fun before after x hl hx hb => ?_, fun hn => ?_⟩
      · cases before with
        | nil =>
          rw [List.nil_append] at hl
          cases hl
          exact absurd hx hq
        | cons y before =>
          rw [List.cons_append] at hl
          cases hl
          rw [List.eraseIdx_cons_succ, ih.1 before after x rfl hx (fun y hy => hb y (List.mem_cons_of_mem _ hy))]
          rfl
      · obtain ⟨hlt, hp, _⟩ := List.findIdx?_eq_some_iff_getElem.mp hj
        exact absurd hp (hn _ (List.mem_cons_of_mem _ (List.getElem_mem hlt)))

/-- A queue in which the search finds nothing stays as it is (R45). -/
theorem without_self (p : Frame → Bool) (l : List Queued) (h : l.findIdx? (fun x => p x.frame) = none) :
    Without (fun f => p f = true) l l := by
  refine ⟨fun before after x hl hx _ => ?_, fun _ => rfl⟩
  rw [List.findIdx?_eq_none_iff] at h
  have := h x (by rw [hl]; exact List.mem_append_right _ (List.mem_cons_self ..))
  rw [hx] at this
  cases this

theorem without_of_iff {p q : Frame → Prop} {l r : List Queued} (h : Without p l r) (e : ∀ f, p f ↔ q f) : Without q l r := by
  have : p = q := funext (fun f => propext (e f))
  rw [← this]
  exact h

/-- With no attempt in flight the removal of a waiting frame takes effect at once (R45). -/
theorem State.removeProtocol_idle (p : Frame → Bool) (ha : s.rlc.attempt = none) :
    ∃ q, s.removeProtocol p = { s with rlc := { s.rlc with protocol := q } } ∧
      Without (fun f => p f = true) s.rlc.protocol q := by
  unfold State.removeProtocol
  split
  · rename_i h
    exact ⟨_, rfl, without_self p _ h⟩
  · rename_i i h
    rw [ha]
    exact ⟨_, rfl, without_eraseIdx p _ i h⟩

theorem isClaimFor_iff (t : TokenId) (f : Frame) : f.isClaimFor t = true ↔ ClaimFor t f := by
  unfold ClaimFor
  cases f <;> simp [Frame.isClaimFor]

theorem isJoin_iff (f : Frame) : f.isJoin = true ↔ f = .join := by
  cases f <;> simp [Frame.isJoin, Frame.kind]

/-- The withdrawal of a CLAIM with no attempt in flight (R61). -/
theorem State.withdrawClaim_idle (t : TokenId) (ha : s.rlc.attempt = none) :
    ∃ q, s.withdrawClaim t = { s with rlc := { s.rlc with protocol := q } } ∧ Without (ClaimFor t) s.rlc.protocol q := by
  obtain ⟨q, e, h⟩ := s.removeProtocol_idle (Frame.isClaimFor t) ha
  exact ⟨q, e, without_of_iff h (isClaimFor_iff t)⟩

/-- All that the end of a claim before its settle window does (R103). -/
theorem State.claimOver_spec {c : Bay} (v : Verdict) (hc : s.tap.chosen = some c) :
    ∃ bs l, s.claimOver v =
      { s with bays := bs, tap := { s.tap with phase := .verdict, verdict := some v }, link := l } ∧
      (s.claimOver v).bay c = givenBack (s.bay c) ∧ (∀ d, d ≠ c → (s.claimOver v).bay d = s.bay d) ∧
      Told (.verdict v .transaction) (s.claimOver v) := by
  obtain ⟨bs, l, e⟩ := s.claimOver_sets v
  have bay : ∀ d, (s.claimOver v).bay d = if d = c then givenBack (s.bay c) else s.bay d := by
    intro d
    unfold State.claimOver
    rw [State.endTransaction_bay]
    unfold State.giveBack
    rw [hc]
    dsimp only
    unfold givenBack
    by_cases h : (s.bay c).state = .reserved
    · rw [if_pos h, if_pos h, State.bay_updateBay]
    · rw [if_neg h, if_neg h]
      split
      · rename_i hd; rw [hd]
      · rfl
  refine ⟨bs, l, e, (bay c).trans (if_pos rfl), fun d hd => (bay d).trans (if_neg hd), State.endTransaction_told _ _⟩

end Sys2Proof.Machine
end

