-- ==== Sys2Proof/Laws/Events.lean ====
section
/-! SUPPORT. Events: what an echo, the check in CLOSING, an insertion, a promotion, a drain and the start of a step do. -/

namespace Sys2Proof.Machine

open Sys2Proof.Safety

/-! ### Echoes and offers -/

theorem State.dropAttempt_sent (s : State) (a : Attempt) : (s.setVeto false).dropAttempt a = sent a s := by
  obtain ⟨_, side, _, _, _⟩ := a
  cases side <;> rfl

/-- The echo of a frame being sent is its producer's effect on the state without that frame, where no restart is due after
it (R42). -/
theorem State.echo_sent {s : State} {a : Attempt} {f : Frame} {v : Nat} (h : Sending f v a s) (k : FrameKind)
    (hk : f.kind = k) (effect : Frame → Settled → State → State)
    (hd : (effect f a.settled (sent a s)).restartDue = false) : s.echo k effect = effect f a.settled (sent a s) := by
  obtain ⟨h1, h2, h3⟩ := h
  simp only [State.echo, h1, h2, State.attemptFrame, h3, hk, State.dropAttempt_sent, State.afterAttempt, hd]
  rfl

@[simp] theorem State.offerNotice_store (s : State) : s.offerNotice.store = s.store := by
  obtain ⟨_, _, e⟩ := s.offerNotice_sets
  rw [e]

@[simp] theorem State.offerNotice_restartDue (s : State) : s.offerNotice.restartDue = s.restartDue := by
  obtain ⟨_, _, e⟩ := s.offerNotice_sets
  rw [e]

/-- An offer adds at most a NOTICE at the service queue's tail (R163). -/
theorem State.offerNotice_service_prefix (s : State) : s.rlc.service <+: s.offerNotice.rlc.service := by
  unfold State.offerNotice
  split
  · exact List.prefix_refl _
  · split
    · show _ <+: (State.queueService s _).rlc.service
      unfold State.queueService
      split
      · exact List.prefix_append _ _
      · exact List.prefix_refl _
    · exact List.prefix_refl _

/-- A raised code adds at most a NOTICE at the service queue's tail (R161, R163). -/
theorem State.raise_service_prefix (s : State) (src : Source) (code : Code) :
    s.rlc.service <+: (s.raise src code).rlc.service := by
  unfold State.raise
  split
  · exact List.prefix_refl _
  · split
    · exact List.prefix_refl _
    · split
      · exact List.prefix_refl _
      · split
        · exact State.offerNotice_service_prefix (s.setEntries (s.aq.queue ++ [⟨⟨src, code, s.ssu.stamp, 1⟩, false⟩]))
        · exact List.prefix_refl _

/-! ### The check in CLOSING -/

theorem mem_allBays (b : Bay) : b ∈ allBays := by
  match b with
  | 0 | 1 | 2 | 3 => decide

theorem State.allBaysIdle_iff (s : State) : s.allBaysIdle = true ↔
    s.tap.phase = .idle ∧ ∀ b : Bay, b.val < s.cfg.baysFitted → (s.bay b).state.busy = false := by
  unfold State.allBaysIdle State.fittedBays
  rw [Bool.and_eq_true, List.all_eq_true, beq_iff_eq, and_comm]
  refine and_congr_right (fun _ => ⟨fun h b hb => ?_, fun h b hb => ?_⟩)
  · have := h b (List.mem_filter.mpr ⟨mem_allBays b, decide_eq_true hb⟩)
    simpa using this
  · have := h b (of_decide_eq_true (List.mem_filter.mp hb).2)
    simpa using this

theorem closingLaw_iff (s : State) : ClosingLaw s ↔ (s.mode = .closing → s.allBaysIdle = false) := by
  unfold ClosingLaw
  refine imp_congr_right (fun _ => ?_)
  rw [← Bool.not_eq_true, State.allBaysIdle_iff]
  refine ⟨?_, fun h => ?_⟩
  · rintro (h | ⟨b, hb, hs⟩) ⟨k1, k2⟩
    · exact h k1
    · rw [k2 b hb] at hs
      cases hs
  · by_cases hi : s.tap.phase = .idle
    · refine .inr (Classical.byContradiction (fun hn => h ⟨hi, fun b hb => ?_⟩))
      cases hx : (s.bay b).state.busy with
      | false => rfl
      | true => exact absurd ⟨b, hb, hx⟩ hn
    · exact .inl hi

/-- After the check a post in CLOSING is not idle (R178). -/
theorem State.closingCheck_law (s : State) : ClosingLaw s.closingCheck := by
  rw [closingLaw_iff]
  intro h
  unfold State.closingCheck at h ⊢
  split at h
  · cases h
  · rename_i hn
    rw [if_neg hn]
    cases hx : s.allBaysIdle with
    | false => rfl
    | true => exact absurd ⟨h, hx⟩ hn

/-! ### Insertion -/

/-- What the search for an eviction finds stands in the table (R22). -/
theorem earliestEvictable_mem : ∀ {l : List (Option Entry)} {p : Nat × Stamp}, earliestEvictable l = some p →
    ∃ x, l[p.1]? = some (some x) ∧ x.status.evictable = true ∧ x.expiry = p.2
  | [], _, h => by cases h
  | slot :: l, p, h => by
    have later : ∀ p, (earliestEvictable l).map (fun p => (p.1 + 1, p.2)) = some p →
        ∃ x, (slot :: l)[p.1]? = some (some x) ∧ x.status.evictable = true ∧ x.expiry = p.2 := by
      intro p h
      cases hl : earliestEvictable l with
      | none => rw [hl] at h; cases h
      | some q =>
        rw [hl] at h
        cases h
        obtain ⟨x, h1, h2⟩ := earliestEvictable_mem hl
        exact ⟨x, by simpa using h1, h2⟩
    unfold earliestEvictable at h
    dsimp only at h
    cases slot with
    | none => exact later p h
    | some y =>
      dsimp only at h
      split at h
      · rename_i hy
        split at h
        · rename_i q hq
          split at h
          · cases h; exact later _ hq
          · cases h; exact ⟨y, by simp, hy, rfl⟩
        · cases h; exact ⟨y, by simp, hy, rfl⟩
      · exact later p h

/-- The search finds the entry of earliest expiry, at the lowest index among equals (R22). -/
theorem earliestEvictable_eq : ∀ (l : List (Option Entry)) (i : Nat) (e : Entry), l[i]? = some (some e) →
    e.status.evictable = true →
    (∀ (j : Nat) (x : Entry), l[j]? = some (some x) → x.status.evictable = true →
      e.expiry.toNat < x.expiry.toNat ∨ e.expiry = x.expiry ∧ i ≤ j) → earliestEvictable l = some (i, e.expiry)
  | [], _, _, h, _, _ => by simp at h
  | slot :: rest, 0, e, h, he, hm => by
    have hs : slot = some e := by simpa using h
    subst hs
    unfold earliestEvictable
    dsimp only
    rw [if_pos he]
    cases hr : earliestEvictable rest with
    | none => rfl
    | some p =>
      obtain ⟨x, h1, h2, h3⟩ := earliestEvictable_mem hr
      have := hm (p.1 + 1) x (by simpa using h1) h2
      simp only [Option.map_some]
      rw [if_neg]
      rw [← h3]
      rcases this with h | h
      · omega
      · rw [h.1]; omega
  | slot :: rest, i + 1, e, h, he, hm => by
    have ih := earliestEvictable_eq rest i e (by simpa using h) he (fun j x hj hx => by
      rcases hm (j + 1) x (by simpa using hj) hx with h | h
      · exact .inl h
      · exact .inr ⟨h.1, by omega⟩)
    unfold earliestEvictable
    rw [ih]
    dsimp only [Option.map_some]
    cases slot with
    | none => rfl
    | some y =>
      dsimp only
      split
      · rename_i hy
        have := hm 0 y (by simp) hy
        rw [if_pos]
        rcases this with h | h
        · exact h
        · omega
      · rfl

/-- A new token takes the lowest free index (R19). -/
theorem State.insertEntry_free (s : State) (e : Entry) (i : Nat) (hn : s.entry e.token = none)
    (h : s.table.findIdx? Option.isNone = some i) :
    s.insertEntry e = { s with table := s.table.set i (some e) } := by
  unfold State.insertEntry
  rw [hn, if_neg (by simp), h]
  rfl

/-- In a full table a new token takes the place of the entry evicted, and TABLE PRESSURE is raised (R22). -/
theorem State.insertEntry_evicts (s : State) (e : Entry) (i : Nat) (hn : s.entry e.token = none) (h : Evicts s.table i) :
    s.insertEntry e = ({ s with table := s.table.set i (some e) } : State).raise .table .tablePressure := by
  obtain ⟨hfull, x, h1, h2, h3⟩ := h
  have full : s.table.findIdx? Option.isNone = none := by
    rw [List.findIdx?_eq_none_iff]
    intro y hy
    have := hfull y hy
    cases y with
    | none => simp at this
    | some _ => rfl
  unfold State.insertEntry
  rw [hn, if_neg (by simp), full, earliestEvictable_eq _ _ _ h1 h2 h3]
  rfl

/-! ### Promotion -/

theorem Attention.isPair_self (a : Attention) : a.isPair a.source a.code = true := by simp [Attention.isPair]

theorem highest_mem : ∀ {l : List Attention} {b : Attention}, highest l = some b → ∃ j : Nat, l[j]? = some b
  | [], _, h => by cases h
  | a :: l, b, h => by
    unfold highest at h
    split at h
    · rename_i x hx
      split at h
      · cases h
        obtain ⟨j, hj⟩ := highest_mem hx
        exact ⟨j + 1, by simpa using hj⟩
      · cases h; exact ⟨0, by simp⟩
    · cases h; exact ⟨0, by simp⟩

/-- The record promoted is the highest one (R162). -/
theorem highest_eq : ∀ (l : List Attention) (i : Nat) (w : Attention), Highest l i w → highest l = some w
  | [], _, _, h => by simpa using h.1
  | a :: l, 0, w, h => by
    have ha : a = w := by simpa using h.1
    subst ha
    unfold highest
    cases hl : highest l with
    | none => rfl
    | some b =>
      obtain ⟨j, hj⟩ := highest_mem hl
      have := h.2 (j + 1) b (by simpa using hj) (by omega)
      dsimp only
      rw [if_neg]
      unfold Attention.above
      simp only [Bool.or_eq_true, Bool.and_eq_true, decide_eq_true_eq, beq_iff_eq]
      omega
  | a :: l, i + 1, w, h => by
    have ih := highest_eq l i w ⟨by simpa using h.1, fun j b hj hne => by
      have := h.2 (j + 1) b (by simpa using hj) (by omega)
      omega⟩
    have := h.2 0 a (by simp) (by omega)
    unfold highest
    rw [ih]
    dsimp only
    rw [if_pos]
    unfold Attention.above
    simp only [Bool.or_eq_true, Bool.and_eq_true, decide_eq_true_eq, beq_iff_eq]
    omega

/-- A record taken out of a set that holds no pair twice leaves the others (R162). -/
theorem filter_isPair : ∀ (l : List Attention) (i : Nat) (w : Attention), (l.map (fun a => (a.source, a.code))).Nodup →
    l[i]? = some w → l.filter (fun x => !x.isPair w.source w.code) = l.eraseIdx i
  | [], _, _, _, h => by simp at h
  | a :: l, 0, w, hn, h => by
    have ha : a = w := by simpa using h
    subst ha
    rw [List.map_cons, List.nodup_cons] at hn
    rw [List.filter_cons, if_neg (by rw [Attention.isPair_self]; decide), List.eraseIdx_cons_zero, List.filter_eq_self]
    intro x hx
    cases hp : x.isPair a.source a.code with
    | false => rfl
    | true => exact absurd (List.mem_map.mpr ⟨x, hx, Attention.isPair_iff.mp hp⟩) hn.1
  | a :: l, i + 1, w, hn, h => by
    have h' : l[i]? = some w := by simpa using h
    rw [List.map_cons, List.nodup_cons] at hn
    rw [List.filter_cons, if_pos, List.eraseIdx_cons_succ, filter_isPair l i w hn.2 h']
    cases hp : a.isPair w.source w.code with
    | false => rfl
    | true =>
      refine absurd ?_ hn.1
      rw [Attention.isPair_iff.mp hp]
      exact List.mem_map.mpr ⟨w, List.mem_of_getElem? h', rfl⟩

/-! ### Draining -/

theorem succ_mod {a n : Nat} (h : a % n + 1 < n) : (a + 1) % n = a % n + 1 := by
  have := Nat.div_add_mod a n
  have e : a + 1 = (a % n + 1) + n * (a / n) := by omega
  rw [e, Nat.add_mul_mod_self_left, Nat.mod_eq_of_lt h]

/-- The state after `n` records were written, which left the slots `slots`. -/
def State.wrote (s : State) (slots : List (Option RentalRecord)) (n : Nat) : State :=
  { s with store := { s.store with
      slots := slots, nextSeq := s.store.nextSeq + BitVec.ofNat 16 n, writer := s.store.writer + n } }

/-- Records that fit in the segment being filled are written one after another (R149, R153). -/
theorem State.handOverAll_wrote : ∀ (l : List RecordBody) (s : State), s.blocked = false →
    s.store.writer % s.segmentSize + l.length < s.segmentSize → s.store.writer + l.length < 1024 →
    s.store.slots.length = 1024 →
    ∃ slots, l.foldl (fun x body => x.handOver true body) s = s.wrote slots l.length ∧
      (s.wrote slots l.length).blocked = false ∧
      (∀ (k : Nat) (body : RecordBody), l[k]? = some body → slots[s.store.writer + k]? =
        some (some ⟨s.store.nextSeq + BitVec.ofNat 16 k, s.ssu.stamp, s.ssu.state == .stale, true, body⟩)) ∧
      ∀ i, i < s.store.writer ∨ s.store.writer + l.length ≤ i → slots[i]? = s.store.slots[i]?
  | [], s, hb, _, _, _ => by
    have e : s.wrote s.store.slots ([] : List RecordBody).length = s := by
      have : s.store.nextSeq + BitVec.ofNat 16 0 = s.store.nextSeq := by simp
      unfold State.wrote
      rw [List.length_nil, this]
      rfl
    exact ⟨s.store.slots, e.symm, by rw [e]; exact hb, fun k b h => by simp at h, fun _ _ => rfl⟩
  | body :: l, s, hb, hs, hw, hlen => by
    simp only [List.length_cons] at hs hw ⊢
    have e1 : s.handOver true body = s.wrote (s.store.slots.set s.store.writer (some (s.recordFor true body))) 1 := by
      rw [s.handOver_written true body hb (by omega)]
      unfold State.wrote
      have : (s.store.writer + 1) % Config.storeSlots = s.store.writer + 1 :=
        Nat.mod_eq_of_lt (by unfold Config.storeSlots; omega)
      rw [this]
      rfl
    obtain ⟨y, hy⟩ : ∃ y, y = s.wrote (s.store.slots.set s.store.writer (some (s.recordFor true body))) 1 := ⟨_, rfl⟩
    have hsz : y.segmentSize = s.segmentSize := by rw [hy]; rfl
    have hyw : y.store.writer = s.store.writer + 1 := by rw [hy]; rfl
    have hyn : y.store.nextSeq = s.store.nextSeq + BitVec.ofNat 16 1 := by rw [hy]; rfl
    have hys : y.store.slots = s.store.slots.set s.store.writer (some (s.recordFor true body)) := by rw [hy]; rfl
    have hyt : y.ssu = s.ssu := by rw [hy]; rfl
    have hm : y.store.writer % y.segmentSize = s.store.writer % s.segmentSize + 1 := by
      rw [hyw, hsz]
      exact succ_mod (by omega)
    have hyb : y.blocked = false := by
      have : (y.store.writer % y.segmentSize == 0) = false := by rw [hm]; simp
      unfold State.blocked
      rw [this]
      rfl
    obtain ⟨slots, h1, h2, h3, h4⟩ := State.handOverAll_wrote l y hyb (by rw [hm, hsz]; omega) (by rw [hyw]; omega)
      (by rw [hys, List.length_set]; exact hlen)
    have seq : ∀ n, s.store.nextSeq + BitVec.ofNat 16 1 + BitVec.ofNat 16 n = s.store.nextSeq + BitVec.ofNat 16 (n + 1) :=
      fun n => by rw [BitVec.add_assoc, ← BitVec.ofNat_add, Nat.add_comm]
    have ew : y.wrote slots l.length = s.wrote slots (l.length + 1) := by
      unfold State.wrote
      rw [hyn, hyw, seq, Nat.add_assoc, Nat.add_comm 1, hy]
      rfl
    refine ⟨slots, ?_, ?_, fun k b hk => ?_, fun i hi => ?_⟩
    · rw [List.foldl_cons, e1, ← hy, h1, ew]
    · rw [← ew]
      exact h2
    · cases k with
      | zero =>
        have hb' : body = b := by simpa using hk
        subst hb'
        have : s.store.nextSeq + BitVec.ofNat 16 0 = s.store.nextSeq := by simp
        rw [Nat.add_zero, h4 _ (.inl (by rw [hyw]; omega)), hys, List.getElem?_set_self (by omega), this]
        rfl
      | succ k =>
        have := h3 k b (by simpa using hk)
        rw [hyw, hyn, hyt, seq, Nat.add_assoc, Nat.add_comm 1] at this
        exact this
    · rw [h4 i (by rw [hyw]; omega), hys, List.getElem?_set_ne (by omega)]

/-! ### Steps of a run -/

theorem Run.step_of {r : Run} {st : Step} (h0 : 0 < r.index) (h : r.steps[r.index - 1]? = some st) : r.step = some st := by
  unfold Run.step
  rw [if_neg (by omega), h]

/-- A boundary of the kind of the step in progress (R142). -/
theorem State.boundary_of {s : State} {r : Run} {st : Step} (kind : Step → Bool) (hr : s.run = some r) (h0 : 0 < r.index)
    (h : r.steps[r.index - 1]? = some st) (hk : kind st = true) :
    s.boundary kind = (s.stepBoundary r st).closingCheck := by
  unfold State.boundary
  rw [hr]
  dsimp only
  rw [Run.step_of h0 h]
  dsimp only
  rw [if_pos hk]

/-- A boundary with the driver-fault input not asserted (R142 tests 2 and 3). -/
theorem State.stepBoundary_of {s : State} {r : Run} {st : Step} (hd : (s.input r.bay).driverFault = false) :
    s.stepBoundary r st = s.progress ((r.moved st).proceed (s.input r.bay) st) := by
  unfold State.stepBoundary
  rw [if_neg (by rw [hd]; exact Bool.false_ne_true)]

/-- A step that acts at its start is begun (R137). -/
theorem Run.begin_acts (input : BayInputs) (r : Run) (st : Step) (rest : List Step)
    (hm : st.mode = .plain ∨ ∃ sensor level, st.mode = .stopWhen sensor level) (ha : st.action ≠ .sense) :
    r.begin input (st :: rest) = .going r.enterStep := by
  unfold Run.begin
  rcases hm with hm | ⟨_, _, hm⟩
  all_goals
    rw [hm]
    dsimp only
    split
    · rename_i k; exact absurd k ha
    · rfl

/-- Of the steps with mode UNTIL, the anchor is the one on home asserted with IN 1 (R137). -/
theorem Step.isAnchor_iff (st : Step) {sensor : Sensor} {level : Bool} {limit : Nat}
    (h : st.mode = .untilSees sensor level limit) :
    st.isAnchor = true ↔ sensor = .home ∧ level = true ∧ st.action = .inward 1 := by
  obtain ⟨a, _, _⟩ := st
  dsimp only at h
  subst h
  unfold Step.isAnchor
  cases sensor <;> cases level <;> cases a <;> simp

end Sys2Proof.Machine
end

