-- ==== Sys2Proof/Laws/Keeps.lean ====
section
/-! SUPPORT. Keeps: a property that the primitive operations keep is kept by every command that is no reset. A law of the
post is proved by giving the fields of `Keeps` for it. -/

namespace Sys2Proof.Machine

/-- The two states hold the same in the pieces the laws of the post speak of: queued frames, table, objections, stamp,
drive, run, store, attention and delay list. -/
structure SameHeld (s t : State) : Prop where
  protocol : t.rlc.protocol = s.rlc.protocol
  service : t.rlc.service = s.rlc.service
  table : t.table = s.table
  objections : t.ce.objections = s.ce.objections
  ssu : t.ssu = s.ssu
  drive : t.drive = s.drive
  run : t.run = s.run
  store : t.store = s.store
  aq : t.aq = s.aq
  delays : t.delays = s.delays

/-- What a property must survive, apart from the boundaries and ends of runs. -/
structure KeepsWork (P : State → Prop) : Prop where
  same : ∀ s t : State, SameHeld s t → P s → P t
  raise : ∀ (s : State) (src : Source) (code : Code), P s → P (s.raise src code)
  offerNotice : ∀ s : State, P s → P s.offerNotice
  noticeSent : ∀ s : State, P s → P s.noticeSent
  clearNoticed : ∀ s : State, P s → P s.clearNoticed
  takeOldest : ∀ s : State, P s → P s.takeOldest
  hush : ∀ (s : State) (v : Bool), P s → P (s.setAq { s.aq with hush := v })
  queueProtocol : ∀ (s : State) (f : Frame), P s → P (s.queueProtocol f)
  queueService : ∀ (s : State) (f : Frame), P s → P (s.queueService f)
  removeProtocol : ∀ (s : State) (p : Frame → Bool), P s → P (s.removeProtocol p)
  dropAttempt : ∀ (s : State) (a : Attempt), P s → P (s.dropAttempt a)
  countVeto : ∀ (s : State) (a : Attempt) (q : Queued), s.attemptFrame a = some q → q.vetoes < 7 → P s → P (s.countVeto a)
  headLeaves : ∀ (s : State) (q : Queued) (rest : List Queued), s.rlc.protocol = q :: rest → P s → P (s.setProtocol rest)
  unmark : ∀ (s : State) (g : Nat), P s →
    P (s.setService (s.rlc.service.map (fun q => { q with frame := q.frame.unmark g })))
  decideObject : ∀ (s : State) (t : TokenId) (c : Addr) (r : ObjectReason), P s → P (s.decideObject t c r)
  forgetObjection : ∀ (s : State) (t : TokenId) (c : Addr), P s → P (s.forgetObjection t c)
  updateEntry : ∀ (s : State) (t : TokenId) (f : Entry → Option Entry),
    (∀ e e', e.token = t → f e = some e' → e'.token = t) → P s → P (s.updateEntry t f)
  insertEntry : ∀ (s : State) (e : Entry), P s → P (s.insertEntry e)
  takeStamp : ∀ (s : State) (x : Stamp),
    (s.ssu.state = .unset ∨ s.ssu.stamp = none ∨ ∃ a, s.ssu.stamp = some a ∧ a.toNat < x.toNat) → P s → P (s.takeStamp x)
  advance : ∀ (s : State) (n : Nat) (a : Stamp), s.ssu.second = some n → s.ssu.stamp = some a → P s → P (s.advance a)
  confirm : ∀ (s : State) (a : Stamp) (second : Timer), s.ssu.state ≠ .unset → s.ssu.stamp = some a →
    (second = s.ssu.second ∨ second = some Config.secondMs) → P s →
    P (s.setSsu ⟨some a, .set, some s.beaconLossMs, second⟩)
  goStale : ∀ s : State, s.ssu.beaconLoss.isSome = true → P s →
    P (s.setSsu { s.ssu with state := .stale, beaconLoss := none })
  handOver : ∀ (s : State) (held : Bool) (body : RecordBody), P s → P (s.handOver held body)
  keepStore : ∀ (s : State) (st : RecordStore), st.slots = s.store.slots → st.writer = s.store.writer →
    st.flags.length = s.store.flags.length → st.cursors.length = s.store.cursors.length → P s → P (s.setStore st)
  setDelays : ∀ (s : State) (d : List DelayRecord), d.length ≤ 4 ∨ d.length ≤ s.delays.length → P s → P (s.setDelays d)
  requestRun : ∀ (s : State) (b : Bay) (run : RunFor), P s → P (s.requestRun b run)
  withdraw : ∀ (s : State) (b : Bay), P s → P (s.withdraw b)

/-- What a property must survive at the boundaries and ends of runs and at RESTART. -/
structure Keeps (P : State → Prop) : Prop extends KeepsWork P where
  goOn : ∀ (s : State) (r r' : Run), s.run = some r → r'.bay = r.bay → P s → P (s.setRun (some r'))
  ends : ∀ (s : State) (r r' : Run) (result : RunResult), s.run = some r → r'.bay = r.bay → P s →
    P (s.completeRun r' result)
  restart : ∀ s : State, P s → P s.clearForRestart

namespace KeepsWork

variable {P : State → Prop} (k : KeepsWork P) (s : State)

include k

/-! ### Work at bays and claims -/

theorem setTap (x : TapRecord) (h : P s) : P (s.setTap x) := k.same s _ ⟨rfl, rfl, rfl, rfl, rfl, rfl, rfl, rfl, rfl, rfl⟩ h

theorem setTcu (x : TokenCheck) (h : P s) : P (s.setTcu x) := k.same s _ ⟨rfl, rfl, rfl, rfl, rfl, rfl, rfl, rfl, rfl, rfl⟩ h

theorem setJu (x : JoinUnit) (h : P s) : P (s.setJu x) := k.same s _ ⟨rfl, rfl, rfl, rfl, rfl, rfl, rfl, rfl, rfl, rfl⟩ h

theorem setMode (x : PostMode) (h : P s) : P (s.setMode x) := k.same s _ ⟨rfl, rfl, rfl, rfl, rfl, rfl, rfl, rfl, rfl, rfl⟩ h

theorem setAttempt (x : Option Attempt) (h : P s) : P (s.setAttempt x) :=
  k.same s _ ⟨rfl, rfl, rfl, rfl, rfl, rfl, rfl, rfl, rfl, rfl⟩ h

theorem setVeto (x : Bool) (h : P s) : P (s.setVeto x) := k.same s _ ⟨rfl, rfl, rfl, rfl, rfl, rfl, rfl, rfl, rfl, rfl⟩ h

theorem setInput (b : Bay) (x : BayInputs) (h : P s) : P (s.setInput b x) :=
  k.same s _ ⟨rfl, rfl, rfl, rfl, rfl, rfl, rfl, rfl, rfl, rfl⟩ h

theorem updateBay (b : Bay) (f : BayRecord → BayRecord) (h : P s) : P (s.updateBay b f) :=
  k.same s _ ⟨rfl, rfl, rfl, rfl, rfl, rfl, rfl, rfl, rfl, rfl⟩ h

theorem settle (x : Option SettleTimer) (h : P s) : P (s.setCe { s.ce with settle := x }) :=
  k.same s _ ⟨rfl, rfl, rfl, rfl, rfl, rfl, rfl, rfl, rfl, rfl⟩ h

theorem startPatrol (h : P s) : P s.startPatrol := k.same s _ ⟨rfl, rfl, rfl, rfl, rfl, rfl, rfl, rfl, rfl, rfl⟩ h

theorem ofLink {s t : State} (h : P s) (e : ∃ l, t = { s with link := l }) : P t := by
  obtain ⟨_, rfl⟩ := e
  exact k.same s _ ⟨rfl, rfl, rfl, rfl, rfl, rfl, rfl, rfl, rfl, rfl⟩ h

theorem placeMessage (m : TapMessage) (h : P s) : P (s.placeMessage m) := k.ofLink h (s.placeMessage_sets m)

theorem placeLight (b : Bay) (i : Indication) (h : P s) : P (s.placeLight b i) := k.ofLink h (s.placeLight_sets b i)

theorem answerSecond (v : Verdict) (h : P s) : P (s.answerSecond v) := k.ofLink h (s.answerSecond_sets v)

theorem endTransaction (v : Verdict) (h : P s) : P (s.endTransaction v) := k.placeMessage _ _ (k.setTap _ _ h)

theorem tryDock (b : Bay) (h : P s) : P (s.tryDock b) := by
  unfold State.tryDock
  split
  · exact k.requestRun _ _ _ (k.updateBay _ _ _ h)
  · exact h

theorem enterEmpty (b : Bay) (h : P s) : P (s.enterEmpty b) := k.tryDock _ _ (k.updateBay _ _ _ h)

theorem calibrate (b : Bay) (h : P s) : P (s.calibrate b) := by
  unfold State.calibrate
  split
  · exact k.updateBay _ _ _ h
  · exact k.requestRun _ _ _ (k.updateBay _ _ _ h)

theorem faultBay (b : Bay) (code : FaultCode) (raised : Bool) (h : P s) : P (s.faultBay b code raised) := by
  unfold State.faultBay
  have h' := k.withdraw _ b (k.updateBay s b (fun r => r.faulted code) h)
  dsimp only
  split
  · exact k.placeLight _ _ _ h'
  · exact k.placeLight _ _ _ (k.raise _ _ _ h')

theorem loseBay (b : Bay) (code : FaultCode) (h : P s) : P (s.loseBay b code) :=
  k.faultBay _ _ _ _ (k.updateBay _ _ _ h)

theorem enterDocked (b : Bay) (h : P s) : P (s.enterDocked b) := k.withdraw _ _ (k.updateBay _ _ _ h)

theorem failDocking (b : Bay) (code : FaultCode) (h : P s) : P (s.failDocking b code) :=
  k.faultBay _ _ _ _ (k.handOver _ _ _ h)

theorem endTagRead (b : Bay) (h : P s) : P (s.endTagRead b) := by
  have idle := k.updateBay s b (fun x => { x with tagRead := none, failedDock := none }) h
  unfold State.endTagRead
  dsimp only
  split
  · split
    · exact k.failDocking _ _ _ idle
    · exact k.enterDocked _ _ (k.handOver _ _ _ idle)
  · exact k.enterDocked _ _ idle
  · split
    · exact idle
    · exact k.enterDocked _ _ idle
  · exact idle

theorem tagAttempt (b : Bay) (n : Nat) (answer : Option (BikeId × BikeClass)) (h : P s) : P (s.tagAttempt b n answer) := by
  unfold State.tagAttempt
  split
  · exact k.endTagRead _ _ (k.updateBay _ _ _ h)
  · split
    · exact k.updateBay _ _ _ h
    · exact k.endTagRead _ _ (k.raise _ _ _ (k.updateBay _ _ _ h))

theorem changeEntry (t : TokenId) (f : Entry → Entry) (hf : ∀ e, (f e).token = e.token) (h : P s) :
    P (s.updateEntry t (fun e => some (f e))) :=
  k.updateEntry _ _ _ (fun e e' ht he => by
    cases he
    rw [hf, ht]) h

theorem removeOrLeave (t : TokenId) (p : Entry → Bool) (h : P s) :
    P (s.updateEntry t (fun e => if p e = true then none else some e)) :=
  k.updateEntry _ _ _ (fun e e' ht he => by
    split at he
    · cases he
    · cases he; exact ht) h

theorem startRental (b : Bay) (late : Bool) (h : P s) : P (s.startRental b late) := by
  unfold State.startRental
  split
  · refine k.updateBay _ _ _ (k.changeEntry _ _ (fun e => if e.status = .ownHeld then { e with status := .ownTaken } else e)
      (fun e => ?_) (k.handOver _ _ _ h))
    split <;> rfl
  · exact h

theorem withdrawal (b : Bay) (h : P s) : P (s.withdrawal b) :=
  k.tryDock _ _ (k.placeLight _ _ _ (k.updateBay _ _ _ (k.startRental _ _ _ (k.updateBay _ _ _ h))))

theorem beginRelatch (b : Bay) (cause : RelatchCause) (h : P s) : P (s.beginRelatch b cause) :=
  k.placeLight _ _ _ (k.requestRun _ _ _ (k.updateBay _ _ _ h))

theorem removeHeld (t : TokenId) (h : P s) : P (s.removeHeld t) := by
  have := k.removeOrLeave s t (fun e => decide (e.status = .ownHeld)) h
  simp only [decide_eq_true_eq] at this
  exact this

theorem lapseClaim (t : TokenId) (r : LapseReason) (h : P s) : P (s.lapseClaim t r) :=
  k.queueProtocol _ _ (k.removeHeld _ _ h)

theorem lapseBay (b : Bay) (h : P s) : P (s.lapseBay b) := by
  unfold State.lapseBay
  split
  · exact k.updateBay _ _ _ (k.lapseClaim _ _ _ (k.handOver _ _ _ h))
  · exact h

theorem handOverAll (l : List RecordBody) : ∀ s : State, P s → P (l.foldl (fun x body => x.handOver true body) s) := by
  induction l with
  | nil => exact fun s h => h
  | cons b rest ih => exact fun s h => ih _ (k.handOver _ _ _ h)

omit k in
theorem foldBays (f : State → Bay → State) (hf : ∀ s b, P s → P (f s b)) (l : List Bay) :
    ∀ s : State, P s → P (l.foldl f s) := by
  induction l with
  | nil => exact fun s h => h
  | cons b rest ih => exact fun s h => ih _ (hf _ _ h)

theorem drainAndTell (h : P s) : P s.drainAndTell :=
  foldBays _ (fun s b => k.tryDock s b) _ _ (k.handOverAll _ _ (k.keepStore _ _ rfl rfl rfl rfl h))

theorem clearSegment (g : Nat) (h : P s) : P (s.clearSegment g) := by
  have cleared := k.unmark _ g
    (k.keepStore s { s.store with flags := s.store.flags.set g false } rfl rfl (List.length_set ..) rfl h)
  unfold State.clearSegment
  dsimp only
  split
  · exact k.drainAndTell _ cleared
  · exact cleared

theorem giveBack (h : P s) : P s.giveBack := by
  obtain ⟨_, e⟩ := s.giveBack_sets
  rw [e]
  exact k.same s _ ⟨rfl, rfl, rfl, rfl, rfl, rfl, rfl, rfl, rfl, rfl⟩ h

theorem claimOver (v : Verdict) (h : P s) : P (s.claimOver v) := k.endTransaction _ _ (k.giveBack _ h)

theorem withdrawClaim (t : TokenId) (h : P s) : P (s.withdrawClaim t) := k.removeProtocol _ _ h

theorem stopSettle (t : TokenId) (h : P s) : P (s.stopSettle t) := by
  unfold State.stopSettle
  split
  · split
    · exact k.settle _ _ h
    · exact h
  · exact h

theorem startClaim (t : Token) (b : Bay) (h : P s) : P (s.startClaim t b) := by
  unfold State.startClaim
  split
  · exact k.setTap _ _ (k.queueProtocol _ _ (k.insertEntry _ _ h))
  · exact k.claimOver _ _ h

theorem select (t : Token) (h : P s) : P (s.select t) := by
  unfold State.select
  split
  · exact k.endTransaction _ _ h
  · exact k.startClaim _ _ _ (k.withdraw _ _ (k.updateBay _ _ _ (k.setTap _ _ h)))

theorem handClaim (t : Token) (i : Nat) (b : Bay) (h : P s) : P (s.handClaim t i b) := by
  refine k.setTap _ _ (k.requestRun _ _ _ (k.withdraw _ _ (k.updateBay _ _ _ (k.changeEntry _ _
    (fun e => if e.status = .ownHeld then { e with bay := some b } else e) (fun e => ?_) (k.setTap _ _ h)))))
  split <;> rfl

theorem exhaust (t : Token) (h : P s) : P (s.exhaust t) :=
  k.endTransaction _ _ (k.handOver _ _ _ (k.lapseClaim _ _ _ h))

theorem walk (t : Token) (l : List Bay) (h : P s) : ∀ i : Nat, P (s.walk t i l) := by
  induction l with
  | nil => exact fun i => k.exhaust _ _ h
  | cons b rest ih =>
    intro i
    rw [State.walk]
    split
    · exact k.handClaim _ _ _ _ h
    · exact ih (i + 1)

theorem walkOn (t : Token) (h : P s) : P (s.walkOn t) := k.walk _ _ _ h _

theorem handFirst (t : Token) (h : P s) : P (s.handFirst t) := by
  unfold State.handFirst
  split
  · split
    · exact k.handClaim _ _ _ _ h
    · exact k.walkOn _ _ h
  · exact k.walkOn _ _ h

theorem settled (timer : SettleTimer) (h : P s) : P (s.settled timer) := by
  have held := k.settle _ none (k.changeEntry s timer.token
    (fun e => if e.status = .ownSettling then { e with status := .ownHeld } else e) (fun e => by split <;> rfl) h)
  unfold State.settled
  dsimp only
  split
  · split
    · exact k.handFirst _ _ held
    · exact held
  · exact held

theorem enterOpen (b : Bay) (h : P s) : P (s.enterOpen b) := by
  have opened := k.updateBay s b (fun r => { r with state := .opened, take := some (1000 * s.cfg.takeS) }) h
  unfold State.enterOpen
  dsimp only
  have go : ∀ told : State, P told →
      P (if ((told.placeLight b .opened).input b).presence = true then told.placeLight b .opened
        else (told.placeLight b .opened).withdrawal b) := by
    intro told ht
    split
    · exact k.placeLight _ _ _ ht
    · exact k.withdrawal _ _ (k.placeLight _ _ _ ht)
  split
  · exact go _ (k.endTransaction _ _ opened)
  · exact go _ opened

theorem failRelease (b : Bay) (r : RunResult) (h : P s) : P (s.failRelease b r) := by
  unfold State.failRelease
  dsimp only
  have lost := k.faultBay s b (releaseFault (s.input b).presence r) (releaseFault (s.input b).presence r == .driverFault) h
  split
  · split
    · exact k.walkOn _ _ lost
    · exact lost
  · exact lost

theorem dropPending (t : TokenId) (h : P s) :
    P (s.updateEntry t (fun e => if e.status = .ownPending then none else some e)) := by
  have := k.removeOrLeave s t (fun e => decide (e.status = .ownPending)) h
  simpa only [decide_eq_true_eq] using this

theorem abort (h : P s) : P s.abort := by
  unfold State.abort
  split
  · exact k.setTap _ _ h
  · exact k.endTransaction _ _ (k.setTcu _ _ h)
  · split
    · exact k.claimOver _ _ (k.withdrawClaim _ _ (k.dropPending _ _ h))
    · exact k.claimOver _ _ h
  · exact h

theorem suppress (t : TokenId) (c : Addr) (h : P s) : P (s.suppress t c) := by
  unfold State.suppress
  split
  · exact k.forgetObjection _ _ _ (k.removeProtocol _ _ h)
  · exact h

theorem takeClaim (c : Addr) (t : TokenId) (b : Bay) (x : Stamp) (h : P s) : P (s.takeClaim c t b x) := by
  unfold State.takeClaim
  split
  · exact k.insertEntry _ _ h
  · split
    · have replaced := k.withdrawClaim _ t (k.updateEntry s t (fun _ => some ⟨t, .peerClaimed, some c, some b, x, false⟩)
        (fun _ _ _ he => by cases he; rfl) h)
      dsimp only
      split
      · exact k.claimOver _ _ replaced
      · exact replaced
    · exact k.decideObject _ _ _ _ h
    · exact k.decideObject _ _ _ _ h
    · exact k.decideObject _ _ _ _ h
    · split
      · exact h
      · exact k.decideObject _ _ _ _ h
    · exact k.decideObject _ _ _ _ h
    · exact k.decideObject _ _ _ _ h

theorem takeObject (t : TokenId) (c : Addr) (h : P s) : P (s.takeObject t c) := by
  have void := k.changeEntry s t (fun x => { x with status := .void }) (fun _ => rfl) h
  unfold State.takeObject
  split
  · exact k.suppress _ _ _ h
  · dsimp only
    split
    · split
      · have stopped := k.suppress _ t c (k.stopSettle _ t void)
        split
        · exact k.claimOver _ _ stopped
        · exact stopped
      · exact k.suppress _ _ _ h
    · split
      · exact k.suppress _ _ _ (k.raise _ _ _ h)
      · exact k.suppress _ _ _ h
    · split
      · exact k.suppress _ _ _ (k.raise _ _ _ h)
      · exact k.suppress _ _ _ h
    · split
      · exact k.suppress _ _ _ void
      · exact k.suppress _ _ _ h
    all_goals exact k.suppress _ _ _ h

theorem takeLapse (c : Addr) (t : TokenId) (h : P s) : P (s.takeLapse c t) := by
  have := k.removeOrLeave s t (fun e => decide (e.status = .peerClaimed ∧ e.claimant = some c)) h
  simp only [decide_eq_true_eq] at this
  exact this

theorem takeRevoke (t : TokenId) (x : Stamp) (h : P s) : P (s.takeRevoke t x) := by
  have revoked := k.changeEntry s t (fun y => y.revoke x) (fun _ => rfl) h
  have marked := k.changeEntry s t (fun y => { y with revokedLate := true, expiry := laterStamp y.expiry x })
    (fun _ => rfl) h
  unfold State.takeRevoke
  split
  · exact k.insertEntry _ _ h
  · dsimp only
    split
    · exact revoked
    · exact revoked
    · exact revoked
    · have pulled := k.withdrawClaim _ t revoked
      split
      · exact k.claimOver _ _ pulled
      · exact pulled
    · have stopped := k.stopSettle _ t revoked
      split
      · exact k.claimOver _ _ stopped
      · exact stopped
    all_goals
      split
      · exact marked
      · exact k.raise _ _ _ marked

theorem claimEchoed (t : TokenId) (h : P s) : P (s.claimEchoed t) := by
  have settling := k.settle _ (some ⟨s.cfg.settleMs, t⟩) (k.changeEntry s t
    (fun e => if e.status = .ownPending then { e with status := .ownSettling } else e) (fun e => by split <;> rfl) h)
  unfold State.claimEchoed
  dsimp only
  split
  · exact k.setTap _ _ settling
  · exact settling

theorem claimDropped (t : TokenId) (h : P s) : P (s.claimDropped t) := by
  unfold State.claimDropped
  dsimp only
  split
  · exact k.claimOver _ _ (k.dropPending _ _ h)
  · exact k.dropPending _ _ h

/-! ### A run's end -/

theorem takeResult (b : Bay) (run : RunFor) (r : RunResult) (h : P s) : P (s.takeResult b run r) := by
  unfold State.takeResult
  split
  · exact k.requestRun _ _ _ (k.updateBay _ _ _ h)
  · exact k.requestRun _ _ _ (k.updateBay _ _ _ h)
  · split
    · unfold State.calibrationEnd
      split
      · exact h
      · split
        · exact k.enterEmpty _ _ h
        · unfold State.homed
          split
          · split
            · exact k.updateBay _ _ _ h
            · exact k.faultBay _ _ _ _ h
          · exact k.requestRun _ _ _ h
      · split
        · exact k.faultBay _ _ _ _ h
        · exact k.faultBay _ _ _ _ h
    · unfold State.dockingEnd
      dsimp only
      split
      · exact h
      · split
        · exact k.updateBay _ _ _ h
        · exact k.calibrate _ _ h
      · split
        · exact k.updateBay _ _ _ (k.updateBay _ _ _ h)
        · exact k.failDocking _ _ _ h
    · split
      · unfold State.patrolEnd
        split
        · exact h
        · exact h
        · exact k.faultBay _ _ _ _ h
      · exact h
    · unfold State.releaseEnd
      split
      · exact h
      · exact k.enterOpen _ _ h
      · exact k.failRelease _ _ _ h
    · unfold State.relatchEnd
      split
      · exact h
      · exact k.updateBay _ _ _ (k.lapseBay _ _ h)
      · exact k.faultBay _ _ _ _ (k.lapseBay _ _ h)
    · unfold State.reopeningEnd
      split
      · exact h
      · exact k.enterEmpty _ _ h
      · exact k.faultBay _ _ _ _ h
    · unfold State.serviceEnd
      split
      · exact h
      · split
        · split
          · exact k.updateBay _ _ _ h
          · exact k.calibrate _ _ h
        · exact h
      · exact k.faultBay _ _ _ _ h
    all_goals exact h

theorem takeMeasured (r : Run) (h : P s) : P (s.takeMeasured r) := by
  unfold State.takeMeasured
  split
  · exact k.updateBay _ _ _ h
  · exact h

/-- A property that says nothing of the drive and the run is kept at the end of a run. -/
theorem completeRun (hr : ∀ s r, P s → P (s.setRun r)) (hd : ∀ s d, P s → P (s.setDrive d)) (r : Run)
    (result : RunResult) (h : P s) : P (s.completeRun r result) := by
  have done : P (((((s.setRun none).takeMeasured r).takeResult r.bay r.run result)).freeDrive) :=
    hd _ _ (k.takeResult _ r.bay r.run result (k.takeMeasured _ r (hr s none h)))
  unfold State.completeRun State.grant
  split
  · exact hr _ _ (hd _ _ done)
  · exact done

/-! ### Modes, joining and the line -/

theorem closingCheck (h : P s) : P s.closingCheck := by
  unfold State.closingCheck
  split
  · exact k.setMode _ _ h
  · exact h

theorem enterJoining (h : P s) : P s.enterJoining :=
  k.offerNotice _ (k.setJu _ _ (k.startPatrol _ (foldBays _ (fun s b => k.calibrate s b) _ _ (k.setMode _ _ h))))

theorem endStartUp (i : Option Image) (h : P s) : P (s.endStartUp i) := by
  unfold State.endStartUp
  split
  · refine k.enterJoining _ (foldBays _ (fun s b h => k.updateBay s b _ h) _ _ ?_)
    exact k.same s _ ⟨rfl, rfl, rfl, rfl, rfl, rfl, rfl, rfl, rfl, rfl⟩ h
  · exact k.setMode _ _ h

theorem beginDump (h : P s) : P s.beginDump := k.queueProtocol _ _ (k.setJu _ _ h)

theorem endDump (h : P s) : P s.endDump := by
  unfold State.endDump
  split
  · exact k.beginDump _ h
  · exact k.setJu _ _ h

theorem takeJoin (h : P s) : P s.takeJoin := by
  unfold State.takeJoin
  split
  · split
    · dsimp only
      split
      · exact k.beginDump _ h
      · exact k.setJu _ _ h
    · exact h
    · exact k.setJu _ _ h
  · exact h

theorem takeOpening (h : P s) : P s.takeOpening := by
  unfold State.takeOpening
  split
  · exact k.setJu _ _ h
  · exact k.setJu _ _ h
  · exact h

theorem merge (d : DumpEntry) (h : P s) : P (s.merge d) := by
  unfold State.merge
  split
  · refine k.changeEntry _ _ _ (fun e => ?_) h
    unfold Entry.merge Entry.revoke
    split <;> rfl
  · exact k.insertEntry _ _ h

theorem mergeAll (l : List DumpEntry) : ∀ s : State, P s → P (l.foldl (fun x e => x.merge e) s) := by
  induction l with
  | nil => exact fun s h => h
  | cons e rest ih => exact fun s h => ih _ (k.merge _ _ h)

theorem takeDump (d : Addr) (seq : Nat) (entries : List DumpEntry) (h : P s) : P (s.takeDump d seq entries) := by
  unfold State.takeDump
  split
  · exact k.setJu _ _ (k.mergeAll _ _ h)
  · split
    · exact k.takeOpening _ h
    · exact h

theorem completeJoin (h : P s) : P s.completeJoin := k.setMode _ _ (k.removeProtocol _ _ (k.setJu _ _ h))

theorem testDumpEnd (d : Addr) (frames entries : Nat) (h : P s) : P (s.testDumpEnd d frames entries) := by
  unfold State.testDumpEnd
  split
  · split
    · exact k.completeJoin _ h
    · exact k.setJu _ _ h
  · split
    · exact k.completeJoin _ h
    · exact h

theorem takeDumperStamp (x : Option Stamp) (h : P s) : P (s.takeDumperStamp x) := by
  unfold State.takeDumperStamp
  split
  · split
    · exact k.takeStamp _ _ (.inl ‹_›) h
    · exact h
  · exact h

theorem takeDumpEnd (d : Addr) (frames entries : Nat) (x : Option Stamp) (h : P s) :
    P (s.takeDumpEnd d frames entries x) := by
  unfold State.takeDumpEnd
  dsimp only
  split
  · exact k.takeDumperStamp _ _ (k.testDumpEnd _ _ _ _ h)
  · split
    · exact k.takeDumperStamp _ _ (k.takeOpening _ h)
    · exact k.takeDumperStamp _ _ h

theorem takeBeacon (x : Stamp) (h : P s) : P (s.takeBeacon x) := by
  unfold State.takeBeacon
  split
  · exact k.takeStamp _ _ (.inl ‹_›) h
  · exact k.takeStamp _ _ (.inr (.inl ‹_›)) h
  · rename_i old hst hs
    split
    · exact k.takeStamp _ _ (.inr (.inr ⟨_, hst, ‹_›⟩)) h
    · split
      · exact k.confirm _ _ _ (fun e => hs e) hst (.inr rfl) h
      · refine k.raise _ _ _ ?_
        have := k.confirm s old s.ssu.second (fun e => hs e) hst (.inl rfl) h
        rwa [← hst] at this

theorem leaveService (m : PostMode) (h : P s) : P (s.leaveService m) := k.abort _ (k.setMode _ _ h)

theorem maintainEnter (h : P s) : P s.maintainEnter := by
  unfold State.maintainEnter
  dsimp only
  split
  · exact k.leaveService _ _ h
  · exact k.setMode _ _ h
  · exact h

theorem clearFault (b : Bay) (h : P s) : P (s.clearFault b) := by
  unfold State.clearFault
  split
  · exact k.calibrate _ _ (k.placeLight _ _ _ (k.updateBay _ _ _ h))
  · exact h

theorem openService (b : Bay) (h : P s) : P (s.openService b) := by
  unfold State.openService
  split
  · exact k.requestRun _ _ _ (k.updateBay _ _ _ (k.withdraw _ _ h))
  · exact h

theorem closeService (b : Bay) (h : P s) : P (s.closeService b) := by
  unfold State.closeService
  split
  · split
    · exact k.requestRun _ _ _ h
    · exact k.enterEmpty _ _ (k.updateBay _ _ _ h)
  · exact h

theorem relatchOpen (b : Bay) (h : P s) : P (s.relatchOpen b) := by
  unfold State.relatchOpen
  split
  · exact k.beginRelatch _ _ _ h
  · exact h

theorem patrolBay (b : Bay) (h : P s) : P (s.patrolBay b) := by
  unfold State.patrolBay
  split
  · exact k.requestRun _ _ _ h
  · exact h

theorem loseAttempt (a : Attempt) (h : P s) : P (s.loseAttempt a) := by
  unfold State.loseAttempt
  split
  · exact k.dropAttempt _ _ h
  · exact k.setAttempt _ _ h

theorem producerDropped (f : Frame) (h : P s) : P (s.producerDropped f) := by
  unfold State.producerDropped
  split
  · exact k.claimDropped _ _ h
  · exact k.forgetObjection _ _ _ h
  · unfold State.joinDropped
    split
    · exact k.queueProtocol _ _ h
    · exact h
  · exact k.endDump _ h
  · exact k.endDump _ h
  · exact h
  all_goals exact k.offerNotice _ h

theorem dropFrame (a : Attempt) (f : Frame) (h : P s) : P (s.dropFrame a f) := by
  refine k.closingCheck _ (k.producerDropped _ _ (k.raise _ _ _ ?_))
  unfold State.noticeUnmarked
  split
  · exact k.clearNoticed _ (k.dropAttempt _ _ h)
  · exact k.dropAttempt _ _ h

theorem offer (n : Nat) : ∀ s : State, P s → P (State.offer n s) := by
  induction n with
  | zero => exact fun s h => h
  | succ n ih =>
    intro s h
    rw [State.offer]
    split
    · exact h
    · exact k.setAttempt _ _ h
    · rename_i x hc
      refine ih _ ?_
      obtain ⟨q, rest, hp, e | e⟩ := s.choose_again x hc
      · rw [e]; exact k.headLeaves _ _ _ hp h
      · rw [e]; exact k.queueProtocol _ _ (k.headLeaves _ _ _ hp h)

theorem takeLogClear (q : Addr) (g : Byte) (h : P s) : P (s.takeLogClear q g) := by
  unfold State.takeLogClear
  dsimp only
  split
  · exact k.queueService _ _ h
  · split
    · split
      · exact k.clearSegment _ _ (k.queueService _ _ h)
      · exact h
    · exact k.queueService _ _ h

theorem unreadable (h : P s) : P s.unreadable := by
  unfold State.unreadable
  split
  · exact k.endTransaction _ _ (k.setTap _ _ h)
  · exact k.answerSecond _ _ (k.setTap _ _ h)
  · exact h

theorem intake (t : Token) (h : P s) : P (s.intake t) := by
  unfold State.intake
  split
  · exact k.endTransaction _ _ h
  · split
    · exact k.endTransaction _ _ h
    · exact k.setTap _ _ (k.setTcu _ _ h)

theorem arrived (bytes : List Byte) (h : P s) : P (s.arrived bytes) := by
  unfold State.arrived
  split
  · exact k.unreadable _ h
  · split
    · exact k.intake _ _ (k.setTap _ _ h)
    · split
      · exact k.setTap _ _ h
      · exact k.answerSecond _ _ (k.setTap _ _ h)
    · exact h

theorem checkDone (t : Token) (h : P s) : P (s.checkDone t) := by
  unfold State.checkDone
  split
  · split
    · unfold State.lookUp
      split
      · split
        · exact k.endTransaction _ _ h
        · exact k.endTransaction _ _ h
      · exact k.select _ _ h
    · exact k.endTransaction _ _ h
  · exact h

theorem messageSent (h : P s) : P s.messageSent := k.ofLink h ⟨_, rfl⟩

theorem sensed (b : Bay) (x : Sensor) (v : Bool) (act : State → State) (ha : ∀ s, P s → P (act s)) (h : P s) :
    P (s.sensed b x v act) := by
  unfold State.sensed
  split
  · exact h
  · have changed := k.setInput s b ((s.input b).setLevel x v) h
    dsimp only
    split
    · exact ha _ changed
    · exact changed

theorem receive {α : Type} (kind : FrameKind) (f : RowFrame) (payload : Option α) (act : α → State → State)
    (ha : ∀ x s, P s → P (act x s)) (h : P s) : P (s.receive kind f payload act) := by
  unfold State.receive
  split
  · have heard := k.setVeto s false h
    dsimp only
    split
    · exact k.raise _ _ _ heard
    · split
      · exact heard
      · split
        · exact ha _ _ heard
        · exact heard
  · exact h

theorem receiveAction (a : RowAction) (f : RowFrame) (act : Option Bay → State → State)
    (ha : ∀ x s, P s → P (act x s)) (h : P s) : P (s.receiveAction a f act) :=
  k.receive s .action f _ _ (fun x s h => by
    split
    · exact k.closingCheck _ (ha _ _ h)
    · exact h) h

end KeepsWork

/-! ### Runs and RESTART -/

/-- The bay of a run that goes on or has ended. -/
def Progress.bay : Progress → Bay
  | .going r => r.bay
  | .ended r _ => r.bay

theorem Run.stepDone_bay (r : Run) (st : Step) : (r.stepDone st).bay = r.bay := by unfold Run.stepDone; split <;> rfl

theorem Run.begin_bay (input : BayInputs) (l : List Step) : ∀ r : Run, (r.begin input l).bay = r.bay := by
  induction l with
  | nil => exact fun r => rfl
  | cons st rest ih =>
    intro r
    have e1 : ((r.enterStep.stepDone st).begin input rest).bay = r.bay := by rw [ih, Run.stepDone_bay]; rfl
    have e2 : (r.enterStep.begin input rest).bay = r.bay := by rw [ih]; rfl
    rw [Run.begin]
    split
    · split
      · exact e1
      · rfl
    · split <;> rfl
    · split
      · split
        · rfl
        · exact e2
      · rfl
    · split
      · exact e2
      · rfl

theorem Run.moved_bay (r : Run) (st : Step) : (r.moved st).bay = r.bay := by unfold Run.moved; split <;> rfl

theorem Run.test_bay (input : BayInputs) (r x : Run) (st : Step)
    (h : r.test input st = .notYet x ∨ r.test input st = .complete x) : x.bay = r.bay := by
  unfold Run.test at h
  split at h
  · split at h <;> rcases h with h | h <;> cases h <;> rfl
  · split at h
    · split at h <;> rcases h with h | h <;> cases h <;> rfl
    · rcases h with h | h <;> cases h <;> rfl
  · split at h
    · rcases h with h | h <;> cases h
      exact Run.stepDone_bay _ _
    · split at h <;> rcases h with h | h <;> cases h <;> rfl
  · split at h
    · rcases h with h | h <;> cases h <;> rfl
    · split at h
      · rcases h with h | h <;> cases h
      · rcases h with h | h <;> cases h
        split <;> rfl

theorem Run.proceed_bay (input : BayInputs) (r : Run) (st : Step) : (r.proceed input st).bay = r.bay := by
  unfold Run.proceed
  split
  · rfl
  · rename_i x hx
    split <;> exact Run.test_bay _ _ _ _ (.inl hx)
  · rename_i x hx
    have e := Run.test_bay _ _ _ _ (.inr hx)
    split
    · exact e
    · split
      · exact e
      · rw [Run.begin_bay]; exact e

namespace Keeps

variable {P : State → Prop} (k : Keeps P) (s : State)

include k

theorem driverFails (r r' : Run) (hr : s.run = some r) (hb : r'.bay = r.bay) (h : P s) : P (s.driverFails r') := by
  refine k.ends _ r r' _ ?_ hb (k.raise _ _ _ h)
  obtain ⟨_, _, e⟩ := s.raise_sets (.bay r'.bay) .driverFault
  rw [e]; exact hr

theorem progress (r : Run) (p : Progress) (hr : s.run = some r)
    (hp : p.bay = r.bay) (h : P s) : P (s.progress p) := by
  cases p with
  | going x => exact k.goOn _ _ _ hr hp h
  | ended x result => exact k.ends _ _ _ _ hr hp h

theorem pulseEnd (r : Run) (hr : s.run = some r) (h : P s) : P (s.pulseEnd r) := by
  unfold State.pulseEnd
  split
  · exact k.driverFails _ _ _ hr rfl h
  · split
    · exact k.ends _ _ _ _ hr rfl h
    · exact k.progress _ _ _ hr (Run.begin_bay _ _ _) h

theorem stepBoundary (r : Run) (st : Step) (hr : s.run = some r) (h : P s) : P (s.stepBoundary r st) := by
  unfold State.stepBoundary
  split
  · exact k.driverFails _ _ _ hr (r.moved_bay st) h
  · refine k.progress _ r _ hr ?_ h
    rw [Run.proceed_bay, Run.moved_bay]

theorem boundary (kind : Step → Bool) (h : P s) : P (s.boundary kind) := by
  unfold State.boundary
  split
  · exact h
  · rename_i r hr
    split
    · split
      · exact k.closingCheck _ (k.stepBoundary _ _ _ hr h)
      · exact h
    · exact h

theorem requestStop (b : Bay) (h : P s) : P (s.requestStop b) := by
  unfold State.requestStop
  split
  · rename_i r hr
    split
    · dsimp only
      split
      · split
        · exact k.driverFails _ r _ hr rfl h
        · exact k.ends _ r _ _ hr rfl h
      · exact k.goOn _ r _ hr rfl h
    · exact h
  · exact h

theorem forceBay (b : Bay) (h : P s) : P (s.forceBay b) := k.requestStop _ _ (k.loseBay _ _ _ h)

theorem presenceFell (b : Bay) (h : P s) : P (s.presenceFell b) := by
  unfold State.presenceFell
  split
  · exact k.forceBay _ _ h
  · split
    · exact k.forceBay _ _ h
    · exact k.forceBay _ _ h
    · exact k.withdrawal _ _ h
    · unfold State.lateWithdrawal
      dsimp only
      have taken := k.updateBay _ b (fun r => { r.noBike with cause := none }) (k.startRental s b true h)
      split
      · exact k.requestStop _ _ (k.updateBay _ _ _ taken)
      · exact k.enterEmpty _ _ (k.withdraw _ _ taken)
    all_goals exact h

theorem seatFell (b : Bay) (h : P s) : P (s.seatFell b) := by
  unfold State.seatFell
  split
  · exact k.forceBay _ _ h
  · split
    · exact k.forceBay _ _ h
    · exact k.forceBay _ _ h
    · unfold State.undock
      split
      · exact k.requestStop _ _ (k.calibrate _ _ h)
      · split
        · exact k.enterEmpty _ _ (k.withdraw _ _ h)
        · exact h
    all_goals exact h

theorem latchLost (b : Bay) (code : FaultCode) (h : P s) : P (s.latchLost b code) := by
  unfold State.latchLost
  split
  · exact h
  · split
    · exact k.loseBay _ _ _ h
    · exact k.loseBay _ _ _ h
    all_goals exact h

theorem carryOutRestart (h : P s) : P s.carryOutRestart :=
  k.enterJoining _ (k.handOver _ _ _
    (k.same s.clearForRestart (s.clearForRestart.setRestartDue false) ⟨rfl, rfl, rfl, rfl, rfl, rfl, rfl, rfl, rfl, rfl⟩ (k.restart _ h)))

theorem afterAttempt (h : P s) : P s.afterAttempt := by
  unfold State.afterAttempt
  split
  · exact k.carryOutRestart _ h
  · exact h

theorem applyAction (a : RowAction) (bay : Option Bay) (h : P s) : P (s.applyAction a bay) := by
  unfold State.applyAction
  split
  · dsimp only
    split
    · exact KeepsWork.foldBays _ (fun s b => k.clearFault s b) _ _ h
    · exact KeepsWork.foldBays _ (fun s b => k.openService s b) _ _ h
    · exact KeepsWork.foldBays _ (fun s b => k.closeService s b) _ _ h
    · exact KeepsWork.foldBays _ (fun s b => k.relatchOpen s b) _ _ h
    · exact KeepsWork.foldBays _ (fun s b => k.patrolBay s b) _ _ h
    · unfold State.applyRestart
      split
      · exact k.same s (s.setRestartDue true) ⟨rfl, rfl, rfl, rfl, rfl, rfl, rfl, rfl, rfl, rfl⟩ h
      · exact k.carryOutRestart _ h
    all_goals exact h
  · exact h

theorem delayAction (a : RowAction) (bay : Option Bay) (h : P s) : P (s.delayAction a bay) := by
  unfold State.delayAction
  dsimp only
  split
  · exact k.applyAction _ _ _ h
  · split
    · refine k.setDelays _ _ (.inl ?_) h
      rename_i hl
      simp only [List.length_append, List.length_cons, List.length_nil]
      exact hl
    · exact k.raise _ _ _ h

theorem receiveActuating (a : RowAction) (f : RowFrame) (h : P s) : P (s.receiveActuating a f) :=
  k.receiveAction _ _ _ _ (fun _ s h => k.delayAction s _ _ h) h

theorem ownVetoed (readback : Bool) (h : P s) : P (s.ownVetoed readback) := by
  unfold State.ownVetoed
  split
  · exact h
  · rename_i a ha
    split
    · rename_i q _ hq
      refine k.afterAttempt _ ?_
      have key : ∀ x : State, P x → x.rlc.protocol = s.rlc.protocol →
          (∃ l, x.rlc.service = s.rlc.service ++ l) → P (x.vetoAttempt a q) := by
        intro x hx hp ⟨l, e⟩
        have hf : x.attemptFrame a = some q := by
          unfold State.attemptFrame State.side at hq ⊢
          cases hside : a.side with
          | protocol => rw [hside] at hq; rw [hp]; exact hq
          | service =>
            rw [hside] at hq
            dsimp only at hq ⊢
            rw [e, List.getElem?_append_left]
            · exact hq
            · exact (List.getElem?_eq_some_iff.mp hq).1
        unfold State.vetoAttempt
        split
        · exact k.dropAttempt _ _ hx
        · split
          · exact k.countVeto _ _ _ hf ‹_› hx
          · exact k.dropFrame _ _ _ hx
      split
      · refine key _ (k.setVeto _ _ (k.raise _ _ _ h)) ?_ ?_
        · obtain ⟨_, _, e⟩ := s.raise_sets .line .duplicateAddress
          rw [e]; rfl
        · exact State.raise_service s .line .duplicateAddress
      · exact key _ (k.setVeto _ _ h) rfl ⟨[], (List.append_nil _).symm⟩
    · exact h

/-! ### Commands -/

theorem echo (kind : FrameKind) (effect : Frame → Settled → State → State) (he : ∀ f x s, P s → P (effect f x s))
    (h : P s) : P (s.echo kind effect) := by
  unfold State.echo
  split
  · exact h
  · split
    · split
      · exact k.afterAttempt _ (he _ _ _ (k.dropAttempt _ _ (k.setVeto _ _ h)))
      · exact h
    · exact h

theorem moveCursor (g n : Nat) (h : P s) : P (s.moveCursor g n) := by
  have moved := k.keepStore s { s.store with cursors := s.store.cursors.set g n } rfl rfl rfl (List.length_set ..) h
  unfold State.moveCursor
  dsimp only
  split
  · exact k.clearSegment _ _ moved
  · exact moved

theorem logDataEchoEffect (f : Frame) (x : Settled) (h : P s) : P (logDataEchoEffect f x s) := by
  unfold Machine.logDataEchoEffect
  split
  · refine k.offerNotice _ ?_
    split
    · exact k.moveCursor _ _ _ h
    · exact h
  · exact h

theorem dumpEchoEffect (f : Frame) (x : Settled) (h : P s) : P (dumpEchoEffect f x s) := by
  unfold Machine.dumpEchoEffect
  split
  · exact k.queueProtocol _ _ (k.setJu _ _ h)
  · exact h

theorem statusReplyEchoEffect (f : Frame) (x : Settled) (h : P s) : P (statusReplyEchoEffect f x s) := by
  unfold Machine.statusReplyEchoEffect
  split
  · split
    · exact k.takeOldest _ h
    · exact k.offerNotice _ h
  · exact h

theorem claimEchoEffect (f : Frame) (x : Settled) (h : P s) : P (claimEchoEffect f x s) := by
  unfold Machine.claimEchoEffect
  split
  · exact k.claimEchoed _ _ h
  · exact h

theorem objectEchoEffect (f : Frame) (x : Settled) (h : P s) : P (objectEchoEffect f x s) := by
  unfold Machine.objectEchoEffect
  split
  · exact k.forgetObjection _ _ _ h
  · exact h

theorem joinEchoEffect (f : Frame) (x : Settled) (h : P s) : P (joinEchoEffect f x s) := by
  unfold Machine.joinEchoEffect
  split
  · exact k.setJu _ _ h
  · exact h

/-- A property with the fields of `Keeps` is kept by every command that is no reset. -/
theorem exec (c : Instr) (hc : ¬Safety.isReset c) (t : State) (h : P s) (e : exec c s = .next t) : P t := by
  cases c <;> cases e
  case powerOn => exact (hc trivial).elim
  case resetPin => exact (hc trivial).elim
  case endOfStartUp =>
    split
    · exact k.endStartUp _ _ h
    · exact h
  case sendStart =>
    split
    · exact k.offer _ _ h
    · exact h
  case arbitrationLost =>
    split
    · split
      · exact k.afterAttempt _ (k.loseAttempt _ _ h)
      · exact h
    · exact h
  case frameVetoed =>
    split
    · exact k.ownVetoed _ _ h
    · split
      · exact k.setVeto _ _ h
      · exact h
  case frameCutOff => exact h
  case claimEcho => exact k.echo _ _ _ (fun f x s h => k.claimEchoEffect s f x h) h
  case objectEcho => exact k.echo _ _ _ (fun f x s h => k.objectEchoEffect s f x h) h
  case lapseEcho => exact k.echo _ _ _ (fun _ _ _ h => h) h
  case joinEcho => exact k.echo _ _ _ (fun f x s h => k.joinEchoEffect s f x h) h
  case dumpEcho => exact k.echo _ _ _ (fun f x s h => k.dumpEchoEffect s f x h) h
  case dumpEndEcho => exact k.echo _ _ _ (fun _ _ s h => k.endDump s h) h
  case logReadyEcho => exact k.echo _ _ _ (fun _ _ s h => k.offerNotice s h) h
  case logDataEcho => exact k.echo _ _ _ (fun f x s h => k.closingCheck _ (k.logDataEchoEffect s f x h)) h
  case statusReplyEcho => exact k.echo _ _ _ (fun f x s h => k.statusReplyEchoEffect s f x h) h
  case noticeEcho => exact k.echo _ _ _ (fun _ _ s h => k.noticeSent s h) h
  case claim => exact k.receive _ _ _ _ _ (fun _ s h => k.closingCheck _ (k.takeClaim s _ _ _ _ h)) h
  case object => exact k.receive _ _ _ _ _ (fun _ s h => k.closingCheck _ (k.takeObject s _ _ h)) h
  case lapse => exact k.receive _ _ _ _ _ (fun _ s h => k.takeLapse s _ _ h) h
  case revoke => exact k.receive _ _ _ _ _ (fun _ s h => k.closingCheck _ (k.takeRevoke s _ _ h)) h
  case beacon => exact k.receive _ _ _ _ _ (fun _ s h => k.takeBeacon s _ h) h
  case join => exact k.receive _ _ _ _ _ (fun _ s h => k.takeJoin s h) h
  case dump => exact k.receive _ _ _ _ _ (fun _ s h => k.takeDump s _ _ _ h) h
  case dumpEnd => exact k.receive _ _ _ _ _ (fun _ s h => k.takeDumpEnd s _ _ _ _ h) h
  case logFetch => exact k.receive _ _ _ _ _ (fun _ s h => k.queueService s _ h) h
  case logClear => exact k.receive _ _ _ _ _ (fun _ s h => k.closingCheck _ (k.takeLogClear s _ _ h)) h
  case statusQuery => exact k.receive _ _ _ _ _ (fun _ s h => k.queueService s _ h) h
  case serviceFrameDiscarded => exact k.receive _ _ _ _ _ (fun _ _ h => h) h
  case hold =>
    refine k.receiveAction _ _ _ _ (fun _ s h => ?_) h
    split
    · exact k.leaveService _ _ h
    · exact h
  case resume =>
    refine k.receiveAction _ _ _ _ (fun _ s h => ?_) h
    split
    · exact k.setMode _ _ h
    · exact h
  case maintainEnter => exact k.receiveAction _ _ _ _ (fun _ s h => k.maintainEnter s h) h
  case maintainExit =>
    refine k.receiveAction _ _ _ _ (fun _ s h => ?_) h
    split
    · exact k.setMode _ _ h
    · exact h
  case hush => exact k.receiveAction _ _ _ _ (fun _ s h => k.hush s _ h) h
  case unhush => exact k.receiveAction _ _ _ _ (fun _ s h => k.offerNotice _ (k.hush s _ h)) h
  case faultClear => exact k.receiveActuating _ _ _ h
  case serviceOpen => exact k.receiveActuating _ _ _ h
  case serviceClose => exact k.receiveActuating _ _ _ h
  case relatchOpen => exact k.receiveActuating _ _ _ h
  case patrolNow => exact k.receiveActuating _ _ _ h
  case restart => exact k.receiveActuating _ _ _ h
  case actionDelayExpiry =>
    split
    · rename_i r rest hd
      refine k.closingCheck _ (k.applyAction _ _ _ (k.setDelays _ _ (.inr ?_) h))
      rw [hd]
      exact Nat.le_succ _
    · exact h
  case secondIntervalExpiry =>
    split
    · exact k.advance _ _ _ ‹_› ‹_› h
    · exact h
  case beaconLossExpiry =>
    split
    · exact k.raise _ _ _ (k.goStale _ ‹_› h)
    · exact h
  case settleExpiry =>
    split
    · exact k.closingCheck _ (k.settled _ _ h)
    · exact h
  case joinAtFirstIdleGap =>
    split
    · exact k.queueProtocol _ _ (k.setJu _ _ h)
    · exact h
  case joinWindowExpiry =>
    split
    · exact k.raise _ _ _ (k.completeJoin _ h)
    · exact h
  case dumpStaggerExpiry =>
    split
    · exact k.beginDump _ h
    · exact h
  case startMarker =>
    split
    · exact h
    · split <;> exact k.setTap _ _ h
  case wrongLengthByte =>
    split
    · exact h
    · exact k.unreadable _ h
  case intakeTimerExpiry =>
    split
    · exact k.unreadable _ h
    · exact h
  case presentFullyArrived => exact k.arrived _ _ h
  case tokenCheckCompletion =>
    split
    · exact k.closingCheck _ (k.checkDone _ _ (k.setTcu _ _ h))
    · exact h
  case verdictSent =>
    split
    · exact k.closingCheck _ (k.setTap _ _ (k.messageSent _ h))
    · exact k.messageSent _ h
    · exact h
  case bayLightSent =>
    split
    · exact k.messageSent _ h
    · exact h
  case presenceRising => exact k.sensed _ _ _ _ _ (fun _ h => h) h
  case presenceFalling => exact k.sensed _ _ _ _ _ (fun s h => k.closingCheck _ (k.presenceFell s _ h)) h
  case seatRising => exact k.sensed _ _ _ _ _ (fun s h => k.closingCheck _ (k.tryDock s _ h)) h
  case seatFalling => exact k.sensed _ _ _ _ _ (fun s h => k.closingCheck _ (k.seatFell s _ h)) h
  case homeRising => exact k.sensed _ _ _ _ _ (fun _ h => h) h
  case homeFalling => exact k.sensed _ _ _ _ _ (fun s h => k.closingCheck _ (k.latchLost s _ _ h)) h
  case clearRising => exact k.sensed _ _ _ _ _ (fun _ h => h) h
  case clearFalling => exact k.sensed _ _ _ _ _ (fun _ h => h) h
  case driverFaultRising b =>
    split
    · exact h
    · have changed := k.setInput s b { s.input b with driverFault := true } h
      dsimp only
      split
      · exact k.closingCheck _ (k.latchLost _ _ _ changed)
      · exact changed
  case driverFaultFalling => exact k.setInput _ _ _ h
  case coldInputChange v => exact k.same s (s.setCold v) ⟨rfl, rfl, rfl, rfl, rfl, rfl, rfl, rfl, rfl, rfl⟩ h
  case takeTimerExpiry =>
    split
    · exact k.closingCheck _ (k.beginRelatch _ _ _ h)
    · exact h
  case patrolTimerExpiry =>
    split
    · exact KeepsWork.foldBays _ (fun s b => k.patrolBay s b) _ _ (k.startPatrol _ h)
    · exact h
  case tagReadAttemptCompletion =>
    split
    · exact k.closingCheck _ (k.tagAttempt _ _ _ _ h)
    · exact h
  case faultResetPulseEnd =>
    split
    · split
      · exact k.closingCheck _ (k.pulseEnd _ _ ‹_› h)
      · exact h
    · exact h
  case boltStepEnd => exact k.boundary _ _ h
  case dwellEnd => exact k.boundary _ _ h
  case senseReading => exact k.boundary _ _ h
  case endOfArbitrationField =>
    split
    · split
      · exact k.setAttempt _ _ h
      · exact h
    · exact h
  case ownAddressFrameReceived =>
    split
    · exact k.raise _ _ _ (k.setVeto _ _ h)
    · exact h
  case unknownKindFrame =>
    split
    · split
      · exact k.raise _ _ _ (k.setVeto _ _ h)
      · exact k.setVeto _ _ h
    · exact h

end Keeps

end Sys2Proof.Machine
end

