-- ==== Sys2Proof/Laws/RunEnds.lean ====
section
/-! SUPPORT. RunEnds: how a command ends a run, and what the drive does then. -/

namespace Sys2Proof.Machine

open Sys2Proof.Safety

/-! ### How a command ends the run in progress -/

/-- Steps that need no bolt step end the run in SUCCESS where they begin (R136, R137). -/
theorem Run.begin_finishes (input : BayInputs) : ∀ (l : List Step) (r : Run), Finishes input l →
    ∃ x, r.begin input l = .ended x .success ∧ x.bay = r.bay ∧ x.run = r.run ∧ x.measured = r.measured
  | [], r, _ => ⟨r, rfl, rfl, rfl, rfl⟩
  | st :: rest, r, h => by
    unfold Finishes at h
    unfold Run.begin
    rcases h with ⟨_, _, _, hm, hl, hf⟩ | ⟨_, _, hm, ha, hf⟩
    · rw [hm]
      dsimp only
      rw [if_pos hl]
      obtain ⟨x, e, h1, h2, h3⟩ := Run.begin_finishes input rest (r.enterStep.stepDone st) hf
      have same : (r.enterStep.stepDone st).bay = r.bay ∧ (r.enterStep.stepDone st).run = r.run ∧
          (r.enterStep.stepDone st).measured = r.measured := by
        unfold Run.stepDone
        split <;> exact ⟨rfl, rfl, rfl⟩
      exact ⟨x, e, h1.trans same.1, h2.trans same.2.1, h3.trans same.2.2⟩
    · rw [hm]
      dsimp only
      rw [ha]
      dsimp only
      split
      · exact ⟨_, rfl, rfl, rfl, rfl⟩
      · rename_i hl
        obtain ⟨x, e, h1⟩ := Run.begin_finishes input rest r.enterStep (hf.resolve_left hl)
        exact ⟨x, e, h1⟩

/-- A step's movement or wait keeps the run's identity and its steps (R140). -/
theorem Run.moved_keeps (r : Run) (st : Step) : (r.moved st).bay = r.bay ∧ (r.moved st).run = r.run ∧
    (r.moved st).measured = r.measured ∧ (r.moved st).steps = r.steps ∧ (r.moved st).index = r.index ∧
    (r.moved st).stop = r.stop ∧ (r.moved st).edge = r.edge ∧ (r.moved st).clearPoint = r.clearPoint := by
  unfold Run.moved
  split <;> exact ⟨rfl, rfl, rfl, rfl, rfl, rfl, rfl, rfl⟩

/-- The bolt steps or waits of the step in progress, after one more of them. -/
theorem Run.moved_made (r : Run) (st : Step) (h : ∀ n, st.action ≠ .dwell n) : (r.moved st).made = r.made + 1 := by
  unfold Run.moved
  split
  · rfl
  · rfl
  · exact absurd ‹_› (h _)
  · rfl

theorem Run.performed_iff (r : Run) (st : Step) : (r.moved st).performed st = true ↔ required r st ≤ r.made + 1 := by
  obtain ⟨a, f, m⟩ := st
  cases a
  · exact decide_eq_true_iff
  · exact decide_eq_true_iff
  · exact ⟨fun _ => Nat.zero_le _, fun _ => rfl⟩
  · exact ⟨fun _ => Nat.zero_le _, fun _ => rfl⟩

/-- What a run's own test at a boundary finds (R136, R137, R142), in the words of the statements. -/
theorem Run.test_spec (i : BayInputs) (r : Run) (st : Step) :
    (StepSucceeds i r st → (r.moved st).test i st = .ends .success) ∧
    (StepReachesLimit i r st → (r.moved st).test i st = .ends (.failLimit r.index)) ∧
    (StepCompletes i r st → ∃ x, (r.moved st).test i st = .complete x ∧ x.bay = r.bay ∧ x.run = r.run ∧
      x.measured = measuredAfter r st ∧ x.steps = r.steps ∧ x.index = r.index ∧ x.stop = r.stop) ∧
    (StepGoesOn i r st → ∃ x, (r.moved st).test i st = .notYet x ∧ x.bay = r.bay ∧ x.run = r.run ∧
      x.measured = r.measured ∧ x.index = r.index ∧ x.stop = r.stop) := by
  obtain ⟨k1, k2, k3, k4, k5, k6, k7, _⟩ := r.moved_keeps st
  refine ⟨?_, ?_, ?_, ?_⟩
  · rintro ⟨sensor, level, hm, hp, hl⟩
    unfold Run.test
    rw [hm]
    dsimp only
    rw [if_pos ((r.performed_iff st).mpr hp), if_pos hl]
  · rintro ⟨ha, h⟩
    have made := r.moved_made st ha
    unfold Run.test
    cases hm : st.mode with
    | plain => rw [hm] at h; exact h.elim
    | stopWhen => rw [hm] at h; exact h.elim
    | untilSees sensor level limit =>
      rw [hm] at h
      dsimp only
      rw [if_neg h.1, if_pos (by rw [made]; exact h.2), k5]
    | edge sensor limit =>
      rw [hm] at h
      dsimp only
      rw [if_neg (by rw [k7]; exact h.1), if_pos (by rw [made]; exact h.2), k5]
  · intro h
    unfold StepCompletes at h
    unfold Run.test measuredAfter
    cases hm : st.mode with
    | plain =>
      rw [hm] at h
      dsimp only
      rw [if_pos ((r.performed_iff st).mpr h)]
      exact ⟨_, rfl, k1, k2, k3, k4, k5, k6⟩
    | stopWhen sensor level =>
      rw [hm] at h
      dsimp only
      rw [if_pos ((r.performed_iff st).mpr h.1), if_neg h.2]
      exact ⟨_, rfl, k1, k2, k3, k4, k5, k6⟩
    | untilSees sensor level limit =>
      rw [hm] at h
      dsimp only
      rw [if_pos h]
      refine ⟨_, rfl, ?_⟩
      unfold Run.stepDone
      split <;> exact ⟨k1, k2, k3, k4, k5, k6⟩
    | edge sensor limit =>
      rw [hm] at h
      dsimp only
      rw [if_pos (by rw [k7]; exact h)]
      refine ⟨_, rfl, k1, k2, ?_, k4, k5, k6⟩
      unfold Run.moved
      cases st.action <;> rfl
  · intro h
    unfold StepGoesOn at h
    have below : ∀ n, r.made + 1 < n → ¬n ≤ (r.moved st).made := by
      intro n hn
      unfold Run.moved
      split <;> (try dsimp only) <;> omega
    unfold Run.test
    cases hm : st.mode with
    | plain =>
      rw [hm] at h
      dsimp only
      rw [if_neg (fun hp => absurd ((r.performed_iff st).mp hp) (Nat.not_le.mpr h))]
      exact ⟨_, rfl, k1, k2, k3, k5, k6⟩
    | stopWhen sensor level =>
      rw [hm] at h
      dsimp only
      rw [if_neg (fun hp => absurd ((r.performed_iff st).mp hp) (Nat.not_le.mpr h))]
      exact ⟨_, rfl, k1, k2, k3, k5, k6⟩
    | untilSees sensor level limit =>
      rw [hm] at h
      dsimp only
      rw [if_neg h.1, if_neg (below _ h.2)]
      exact ⟨_, rfl, k1, k2, k3, k5, k6⟩
    | edge sensor limit =>
      rw [hm] at h
      dsimp only
      rw [if_neg (by rw [k7]; exact h.1), if_neg (below _ h.2)]
      refine ⟨_, rfl, ?_⟩
      split <;> exact ⟨k1, k2, k3, k5, k6⟩

/-- A boundary command carries out the boundary of the step in progress (R142). -/
theorem exec_atStep {c : Instr} {s : State} {r : Run} {st : Step} (h : AtStep c r st) (hr : s.run = some r) :
    exec c s = .next (s.stepBoundary r st).closingCheck := by
  obtain ⟨h0, hs, ⟨rfl, n, ha | ha⟩ | ⟨rfl, n, ha⟩ | ⟨rfl, ha⟩⟩ := h
  · exact congrArg _ (State.boundary_of _ hr h0 hs (by unfold Step.moves; rw [ha]))
  · exact congrArg _ (State.boundary_of _ hr h0 hs (by unfold Step.moves; rw [ha]))
  · exact congrArg _ (State.boundary_of _ hr h0 hs (by unfold Step.dwells; rw [ha]))
  · exact congrArg _ (State.boundary_of _ hr h0 hs (by rw [ha]; rfl))

/-- A command that ends the run completes it with that ending and measured count; a driver failure has been raised before
(R141 to R143). -/
theorem exec_ends {s : State} {r : Run} {c : Instr} {e : Ending} {m : Option Nat} (h : Ends s r c e m)
    (hr : s.run = some r) :
    ∃ (x : Run) (result : RunResult), exec c s =
        .next ((if e = .driver then s.raise (.bay r.bay) .driverFault else s).completeRun x result).closingCheck ∧
      x.bay = r.bay ∧ x.run = r.run ∧ x.measured = m ∧ endingOf result = e := by
  have pulse : r.index = 0 → exec .faultResetPulseEnd s = .next (s.pulseEnd r).closingCheck := by
    intro h0
    refine congrArg Host.Outcome.next ?_
    rw [hr]
    dsimp only
    rw [if_pos h0]
  have left : r.index = 0 → r.left = r.steps := by
    intro h0
    unfold Run.left
    rw [h0]
    rfl
  cases h with
  | pulseDriver h0 hd =>
    refine ⟨r, .failDriver r.index, ?_, rfl, rfl, rfl, rfl⟩
    rw [pulse h0, State.pulseEnd, if_pos hd]
    rfl
  | pulseStopped h0 hd hs =>
    refine ⟨r, .stopped 0, ?_, rfl, rfl, rfl, rfl⟩
    rw [pulse h0, State.pulseEnd, if_neg (by rw [hd]; exact Bool.false_ne_true), if_pos hs]
    rfl
  | pulseFinished h0 hd hs hf =>
    obtain ⟨x, e, h1⟩ := r.begin_finishes _ _ hf
    refine ⟨x, .success, ?_, h1.1, h1.2.1, h1.2.2, rfl⟩
    rw [pulse h0, State.pulseEnd, if_neg (by rw [hd]; exact Bool.false_ne_true),
      if_neg (by rw [hs]; exact Bool.false_ne_true), left h0, e]
    rfl
  | driver _ st ha hd =>
    obtain ⟨k1, k2, k3, _⟩ := r.moved_keeps st
    refine ⟨r.moved st, .failDriver (r.moved st).index, ?_, k1, k2, k3, rfl⟩
    rw [exec_atStep ha hr, State.stepBoundary, if_pos hd, State.driverFails, k1]
    rfl
  | limit _ st ha hd hl =>
    obtain ⟨k1, k2, k3, _⟩ := r.moved_keeps st
    refine ⟨r.moved st, .failLimit r.index, ?_, k1, k2, k3, rfl⟩
    rw [exec_atStep ha hr, State.stepBoundary_of hd, Run.proceed, (r.test_spec _ st).2.1 hl]
    rfl
  | holds _ st ha hd hl =>
    obtain ⟨k1, k2, k3, _⟩ := r.moved_keeps st
    refine ⟨r.moved st, .success, ?_, k1, k2, k3, rfl⟩
    rw [exec_atStep ha hr, State.stepBoundary_of hd, Run.proceed, (r.test_spec _ st).1 hl]
    rfl
  | finished _ st ha hd hc hs hf =>
    obtain ⟨x, ht, k1, k2, k3, k4, k5, k6⟩ := (r.test_spec _ st).2.2.1 hc
    have hx : x.left = r.steps.drop r.index := by rw [Run.left, k4, k5]
    by_cases hlen : r.steps.length ≤ r.index
    · refine ⟨x, .success, ?_, k1, k2, k3, rfl⟩
      rw [exec_atStep ha hr, State.stepBoundary_of hd, Run.proceed, ht]
      dsimp only
      rw [hx, List.drop_eq_nil_of_le hlen]
      rfl
    · obtain ⟨y, e, h1, h2, h3⟩ := x.begin_finishes _ _ hf
      refine ⟨y, .success, ?_, h1.trans k1, h2.trans k2, h3.trans k3, rfl⟩
      rw [exec_atStep ha hr, State.stepBoundary_of hd, Run.proceed, ht]
      dsimp only
      rw [hx, if_neg (by simpa using hlen), if_neg (by rw [k6, hs.resolve_left hlen]; exact Bool.false_ne_true), e]
      rfl
  | stoppedInStep _ st ha hd hs hg =>
    obtain ⟨x, ht, k1, k2, k3, k4, k5⟩ := (r.test_spec _ st).2.2.2 hg
    refine ⟨x, .stopped x.index, ?_, k1, k2, k3, rfl⟩
    rw [exec_atStep ha hr, State.stepBoundary_of hd, Run.proceed, ht]
    dsimp only
    rw [if_pos (by rw [k5]; exact hs)]
    rfl
  | stoppedBetween _ st ha hd hs hc hi =>
    obtain ⟨x, ht, k1, k2, k3, k4, k5, k6⟩ := (r.test_spec _ st).2.2.1 hc
    have hx : x.left = r.steps.drop r.index := by rw [Run.left, k4, k5]
    refine ⟨x, .stopped (x.index + 1), ?_, k1, k2, k3, rfl⟩
    rw [exec_atStep ha hr, State.stepBoundary_of hd, Run.proceed, ht]
    dsimp only
    rw [hx, if_neg (by simpa using hi), if_pos (by rw [k6]; exact hs)]
    rfl

/-! ### What the end hands on -/

/-- The post once its run at bay `b` is over, before the bay takes the result: the bay's record is `x`, its clear point
set (R143 items 1 and 3). -/
def State.over (s : State) (b : Bay) (x : BayRecord) : State := { s with run := none, bays := s.bays.set b x }

@[simp] theorem State.over_bay (s : State) (b c : Bay) (x : BayRecord) :
    (s.over b x).bay c = if c = b then x else s.bay c := PerBay.get_set _ _ _ _

theorem State.takeMeasured_over (s : State) (r : Run) :
    (s.setRun none).takeMeasured r = s.over r.bay (atEnd s r r.measured) := by
  unfold State.takeMeasured atEnd
  cases r.measured with
  | some n => rfl
  | none =>
    unfold State.over
    dsimp only
    rw [if_pos rfl]
    show _ = ({ s with run := none, bays := s.bays.set r.bay (s.bays.get r.bay) } : State)
    rw [PerBay.set_get]
    rfl

/-- The completion of a run: the bay's answer, on a post without a run, and the next grant (R143). -/
theorem State.completeRun_over (s : State) (r : Run) (result : RunResult) :
    s.completeRun r result =
      ((s.over r.bay (atEnd s r r.measured)).takeResult r.bay r.run result).freeDrive.grant := by
  rw [State.completeRun, State.takeMeasured_over]

/-- The drive, made FREE on a post without a run, goes to the first request that waits (R146). -/
theorem State.grant_handsOn {y : State} (h : y.run = none) : HandsOn y.drive.waiting y.freeDrive.grant.closingCheck := by
  unfold HandsOn
  rw [State.closingCheck_drive, State.closingCheck_run]
  unfold State.grant State.freeDrive
  simp only [State.setDrive]
  cases hw : y.drive.waiting with
  | nil => simp [h]
  | cons q rest => simp [State.setRun, State.startedRun]

/-- A grant touches the drive and the run alone. -/
theorem State.grant_rest (y : State) : ∃ d r m, y.freeDrive.grant.closingCheck = { y with drive := d, run := r, mode := m } := by
  obtain ⟨d, r, h⟩ := y.freeDrive.grant_sets
  obtain ⟨m, h'⟩ := y.freeDrive.grant.closingCheck_sets
  exact ⟨d, r, m, by rw [h', h]; rfl⟩

/-- A request made while the drive is held joins the list's tail, and nothing is granted (R145). -/
theorem State.requestRun_held {y : State} {b h : Bay} {run : RunFor} (hr : y.run = none) (hd : y.drive.holder = some h)
    (hw : y.requestWaits b = false) :
    y.requestRun b run = { y with drive := { y.drive with waiting := y.drive.waiting ++ [⟨b, run⟩] } } := by
  have want : y.wantsDrive b = false := by
    unfold State.wantsDrive State.runsAt
    rw [hr, hw]
    rfl
  unfold State.requestRun
  rw [if_neg (by rw [want]; exact Bool.false_ne_true)]
  unfold State.grant State.setDrive
  dsimp only
  rw [hd]

/-- A bay that has no request waiting has none to withdraw. -/
theorem State.withdraw_none {y : State} {b : Bay} (h : y.requestWaits b = false) :
    y.drive.waiting.filter (fun r => r.bay != b) = y.drive.waiting := by
  unfold State.requestWaits at h
  rw [List.any_eq_false] at h
  rw [List.filter_eq_self]
  intro q hq
  have := h q hq
  simpa using this

/-- The post at the end of a run, before its bay is told: a driver failure has been raised. -/
def State.told (s : State) (b : Bay) (e : Ending) : State :=
  if e = .driver then s.raise (.bay b) .driverFault else s

theorem State.told_sets (s : State) (b : Bay) (e : Ending) :
    ∃ aq q, s.told b e = { s with aq := aq, rlc := { s.rlc with service := q } } := by
  unfold State.told
  split
  · exact s.raise_sets _ _
  · exact ⟨_, _, rfl⟩

/-- A command that ends the run in progress leaves what the bay's answer and the next grant leave (R141 to R143). -/
theorem exec_ends_over {s : State} {r : Run} {c : Instr} {e : Ending} {m : Option Nat} (h : Ends s r c e m)
    (hr : s.run = some r) :
    ∃ result : RunResult, endingOf result = e ∧ exec c s = .next
      ((((s.told r.bay e).over r.bay (atEnd s r m)).takeResult r.bay r.run result).freeDrive.grant).closingCheck := by
  obtain ⟨x, result, h1, h2, h3, h4, h5⟩ := exec_ends h hr
  refine ⟨result, h5, ?_⟩
  rw [h1, State.completeRun_over, h2, h3, h4]
  have hb : atEnd (s.told r.bay e) x m = atEnd s r m := by
    unfold atEnd
    rw [h2]
    unfold State.told
    split
    · rw [State.raise_bay]
    · rfl
  rw [← hb]
  rfl

/-- By the drive's law the bay whose run has ended holds the drive and has no request waiting (R146). -/
theorem DriveLaw.over {s t : State} {r : Run} (h : DriveLaw s) (hr : s.run = some r) (ht : t.drive = s.drive) :
    t.drive.holder = some r.bay ∧ t.requestWaits r.bay = false := by
  obtain ⟨_, h2, h3⟩ := h
  have runs : s.runsAt r.bay = true := by
    unfold State.runsAt
    rw [hr]
    exact beq_self_eq_true _
  refine ⟨by rw [ht, h2, hr]; rfl, ?_⟩
  unfold State.requestWaits
  rw [ht]
  exact h3 _ runs

/-! ### What the bay's answer comes to -/

/-- A change of the bay whose run is over. -/
theorem State.over_update (s : State) (b : Bay) (x : BayRecord) (f : BayRecord → BayRecord) :
    (s.over b x).updateBay b f = s.over b (f x) := by
  unfold State.updateBay State.over State.setBay State.setBays State.bay
  dsimp only
  rw [PerBay.get_set, if_pos rfl, PerBay.set_set]

/-- What the bay's answer must come to for a command to leave its record and the drive so. -/
theorem leaves_of {c : Instr} {s u : State} {b : Bay} {after : BayRecord} {w : List Request}
    (h : exec c s = .next u.freeDrive.grant.closingCheck)
    (hu : ∃ aq q lk, u = { (s.over b after) with
      drive := { s.drive with waiting := w }, aq := aq, link := lk, rlc := { s.rlc with service := q } }) :
    Leaves c s b after w := by
  obtain ⟨aq, q, lk, hu⟩ := hu
  obtain ⟨d, r, m, e⟩ := u.grant_rest
  have hh := State.grant_handsOn (y := u) (by rw [hu]; rfl)
  refine ⟨_, h, ?_, ?_, ?_⟩
  · rw [e, hu]
    show (s.over b after).bay b = _
    rw [State.over_bay, if_pos rfl]
  · rw [hu] at hh ⊢
    exact hh
  · rw [e, hu]
    refine ⟨fun d hd => ?_, rfl, rfl, rfl, rfl, rfl⟩
    show (s.over b after).bay d = _
    rw [State.over_bay, if_neg hd]

/-- The entry to EMPTY of the bay whose run is over (R119). -/
theorem State.enterEmpty_over (s : State) (b : Bay) (x : BayRecord) (hd : s.drive.holder = some b)
    (hw : s.requestWaits b = false) :
    (s.over b x).enterEmpty b =
      if (s.input b).seat = true ∧ (s.pendingOf b).length < 2 then
        { (s.over b { x with state := .docking }) with
          drive := { s.drive with waiting := s.drive.waiting ++ [⟨b, .role .relatch⟩] } }
      else s.over b { x with state := .empty } := by
  unfold State.enterEmpty
  rw [State.over_update]
  unfold State.tryDock
  have hst : ((s.over b { x with state := .empty }).bay b).state = .empty := by rw [State.over_bay, if_pos rfl]
  by_cases k : (s.input b).seat = true ∧ (s.pendingOf b).length < 2
  · rw [if_pos ⟨hst, k.1, k.2⟩, if_pos k, State.over_update]
    exact State.requestRun_held (y := s.over b { x with state := .docking }) rfl hd hw
  · rw [if_neg (fun h => k ⟨h.2.1, h.2.2⟩), if_neg k]

/-- Calibration begun by the bay whose run is over (R116). -/
theorem State.calibrate_over (s : State) (b : Bay) (x : BayRecord) (hd : s.drive.holder = some b)
    (hw : s.requestWaits b = false) :
    (s.over b x).calibrate b = { (s.over b (calibratingFrom x)) with
      drive := { s.drive with waiting := s.drive.waiting ++ [⟨b, .role .home⟩] } } := by
  unfold State.calibrate
  have : (s.over b x).runsAt b = false := rfl
  rw [if_neg (by rw [this]; exact Bool.false_ne_true), State.over_update]
  exact State.requestRun_held (y := s.over b (calibratingFrom x)) rfl hd hw

/-! ### Faults -/

theorem State.faultBay_told (s : State) (b : Bay) (code : FaultCode) (raised : Bool) :
    Told (.bayLight b .fault) (s.faultBay b code raised) := State.placeLight_told _ _ _

/-- The records a fault leaves: those there were, and its own where the Profile Runner has not raised it (R132). -/
theorem State.faultBay_pairs (s : State) (b : Bay) (code : FaultCode) (raised : Bool) :
    (∀ p, p ∈ attentionPairs s → p ∈ attentionPairs (s.faultBay b code raised)) ∧
      (raised = false → s.mode.working = true → s.masked (.bay b) = false →
        (Source.bay b, code.code) ∈ attentionPairs (s.faultBay b code raised)) := by
  unfold State.faultBay
  dsimp only
  generalize hy : (s.updateBay b (fun r => r.faulted code)).withdraw b = y
  have aq : attentionPairs y = attentionPairs s := attentionPairs_of_aq (by rw [← hy]; rfl)
  cases raised with
  | true =>
    obtain ⟨_, e⟩ := y.placeLight_sets b .fault
    refine ⟨fun p hp => ?_, nofun⟩
    rw [if_pos rfl, attentionPairs_of_aq (s := y) (by rw [e]), aq]
    exact hp
  | false =>
    obtain ⟨_, e⟩ := (y.raise (.bay b) code.code).placeLight_sets b .fault
    have light : attentionPairs ((y.raise (.bay b) code.code).placeLight b .fault) =
        attentionPairs (y.raise (.bay b) code.code) := attentionPairs_of_aq (by rw [e])
    rw [if_neg Bool.false_ne_true, light]
    refine ⟨fun p hp => y.raise_keeps _ _ p (by rw [aq]; exact hp), fun _ hm hk => y.raise_records _ _ ?_ ?_⟩
    · rw [← hy]
      exact hm
    · rw [← hy]
      exact hk

/-- A fault of the bay whose run is over, on the post `base`, in the words of the statements (R132). -/
theorem State.faultBay_faulted {s base : State} {b : Bay} {x : BayRecord} {code : FaultCode} {raised : Bool}
    (hm : base.mode = s.mode) (hi : base.image = s.image)
    (hr : raised = true → s.mode.working = true → s.masked (.bay b) = false →
      (Source.bay b, code.code) ∈ attentionPairs base) :
    Faulted b code x s ((base.over b x).faultBay b code raised) := by
  refine ⟨?_, State.faultBay_told _ _ _ _, fun hw hk => ?_⟩
  · obtain ⟨l, aq, q, e⟩ := (base.over b x).faultBay_sets b code raised
    rw [e]
    show ((base.over b x).bays.set b _).get b = _
    rw [PerBay.get_set, if_pos rfl, State.over_bay, if_pos rfl]
    rfl
  · obtain ⟨h1, h2⟩ := (base.over b x).faultBay_pairs b code raised
    cases raised with
    | true => exact h1 _ (hr rfl hw hk)
    | false =>
      refine h2 rfl ?_ ?_
      · show base.mode.working = true
        rw [hm]
        exact hw
      · unfold State.masked State.cfg at hk ⊢
        show ((base.image.getD Image.blank).attentionMask).getLsbD _ = _
        rw [hi]
        exact hk

/-- What later keeps the bay, the messages and the attention records keeps the fault. -/
theorem faulted_keeps {b : Bay} {code : FaultCode} {x : BayRecord} {s t u : State} (h : Faulted b code x s t)
    (hb : u.bay b = t.bay b) (hl : Told (.bayLight b .fault) t → Told (.bayLight b .fault) u)
    (ha : ∀ p, p ∈ attentionPairs t → p ∈ attentionPairs u) : Faulted b code x s u :=
  ⟨hb.trans h.1, hl h.2.1, fun hw hk => ha _ (h.2.2 hw hk)⟩

/-! ### Records handed over -/

/-- A record handed over removes no attention record (R151). -/
theorem State.handOver_pairs (s : State) (held : Bool) (body : RecordBody) (p : Source × Code) (h : p ∈ attentionPairs s) :
    p ∈ attentionPairs (s.handOver held body) := by
  unfold State.handOver
  split
  · unfold State.pend
    split <;> exact h
  · unfold State.writeRecord
    split
    · obtain ⟨st, q, e⟩ := State.fillSegment_sets (s.placeRecord held body) s.writerSegment
      have moved : p ∈ attentionPairs (((s.placeRecord held body).fillSegment s.writerSegment).moveWriter) := by
        rw [e]
        exact h
      dsimp only
      split
      · exact State.raise_keeps _ _ _ p moved
      · exact moved
    · exact h

/-- What handing a record over does to the store, in the words of the statements (R149, R152); `x` is a post with the store,
the configuration and the stamp of `s`. -/
theorem State.handOver_recorded {s x : State} (body : RecordBody) (h1 : x.store = s.store) (h2 : x.image = s.image)
    (h3 : x.ssu = s.ssu) : Recorded body s (x.handOver false body).store := by
  have hseg : x.segmentSize = s.segmentSize := by
    unfold State.segmentSize State.cfg
    rw [h2]
  have hbl : x.blocked = s.blocked := by
    unfold State.blocked State.writerSegment State.flagged
    rw [h1, hseg]
  refine ⟨fun hb => ?_, fun hb he => ?_⟩
  · unfold State.handOver
    rw [hbl, if_pos hb]
    unfold State.pend
    rw [h1]
    by_cases k : body = .resetMark ∧ RecordBody.resetMark ∈ s.store.waiting
    · rw [if_pos k, if_pos (by simp [k.1, k.2])]
      exact h1
    · rw [if_neg k, if_neg (by simpa using k)]
      rfl
  · rw [x.handOver_written false body (by rw [hbl]; exact hb) (by rw [h1, hseg]; exact he)]
    unfold State.recordFor
    rw [h1, h3]

/-- All that a withdrawal's START does: the record is handed over, the entry is OWN-TAKEN and the claim detached (R64, R125,
R128). -/
theorem State.startRental_spec {y : State} {b : Bay} {t : TokenId} {e : Entry} (late : Bool) (hc : (y.bay b).claim = some t)
    (he : y.entry t = some e) (hs : e.status = .ownHeld) :
    ∃ tb st aq q, y.startRental b late =
      { y with
        table := tb, bays := y.bays.set b { y.bay b with claim := none }, store := st, aq := aq
        rlc := { y.rlc with service := q } } ∧
      (y.startRental b late).entry t = some { e with status := .ownTaken } ∧
      (∀ u, u ≠ t → (y.startRental b late).entry u = y.entry u) ∧
      Recorded (.start b t (y.bay b).bikeId (y.bay b).bikeClass late) y (y.startRental b late).store := by
  obtain ⟨w, hw⟩ : ∃ w, w = y.handOver false (.start b t (y.bay b).bikeId (y.bay b).bikeClass late) := ⟨_, rfl⟩
  have hr := State.handOver_recorded (s := y) (x := y) (.start b t (y.bay b).bikeId (y.bay b).bikeClass late) rfl rfl rfl
  obtain ⟨st, aq, q, ew⟩ := y.handOver_sets false (.start b t (y.bay b).bikeId (y.bay b).bikeClass late)
  rw [← hw] at hr ew
  have started : y.startRental b late = w.claimTaken b t := by
    unfold State.startRental
    rw [hc]
    dsimp only
    rw [← hw]
  have entries : ∀ u, (w.claimTaken b t).entry u =
      if u = t then some { e with status := .ownTaken } else y.entry u := by
    intro u
    have same : ∀ v, w.entry v = y.entry v := fun v => by
      unfold State.entry
      rw [ew]
    have taken := w.entry_changed t u (fun e => if e.status = .ownHeld then { e with status := .ownTaken } else e)
      (fun e => by split <;> rfl)
    rw [same, same, he, Option.map_some, if_pos hs] at taken
    exact taken
  refine ⟨(w.claimTaken b t).table, st, aq, q, ?_, ?_, fun u hu => ?_, ?_⟩
  · rw [started, ew]
    rfl
  · rw [started, entries, if_pos rfl]
  · rw [started, entries, if_neg hu]
  · rw [started]
    exact hr

/-- All that the entry to EMPTY of a bay without a request does: with the seat asserted and fewer than 2 records pending it
begins docking, and otherwise nothing more (R119). -/
theorem State.tryDock_spec {y : State} {b : Bay} (hb : (y.bay b).state = .empty) (hw : y.wantsDrive b = false) :
    ((y.input b).seat = false ∨ 2 ≤ (y.pendingOf b).length → y.tryDock b = y) ∧
      ((y.input b).seat = true → (y.pendingOf b).length < 2 →
        (y.tryDock b).bay b = { y.bay b with state := .docking } ∧ (∀ d, d ≠ b → (y.tryDock b).bay d = y.bay d) ∧
          Asks b (.role .relatch) (y.tryDock b)) := by
  refine ⟨fun h => ?_, fun h1 h2 => ?_⟩
  · unfold State.tryDock
    rw [if_neg]
    rintro ⟨_, h1, h2⟩
    rcases h with h | h
    · rw [h] at h1; cases h1
    · exact absurd h2 (Nat.not_lt.mpr h)
  · have begun : y.tryDock b =
        (y.updateBay b (fun r => { r with state := .docking })).requestRun b (.role .relatch) := by
      unfold State.tryDock
      rw [if_pos ⟨hb, h1, h2⟩]
    rw [begun]
    refine ⟨?_, fun d hd => ?_, State.requestRun_asks _ b _ hw⟩
    · rw [State.requestRun_bay, State.bay_updateBay, if_pos rfl]
    · rw [State.requestRun_bay, State.bay_updateBay, if_neg hd]

end Sys2Proof.Machine
end

