-- ==== Sys2Proof/Laws/Walk.lean ====
section
/-! SUPPORT. Walk: what the walk over the candidates does with a held claim. -/

namespace Sys2Proof.Machine

open Sys2Proof.Safety

theorem State.eligible_iff (s : State) (t : Token) (b : Bay) : s.eligible t b = true ↔ CanServe s t b := by
  unfold State.eligible CanServe State.fitted State.pendingCount
  cases (s.bay b).bikeClass with
  | none => simp
  | some c => simp [and_assoc]

/-! ### The walk -/

/-- The walk hands the claim to the first eligible bay of its list (R104, R105). -/
theorem State.walk_found {y : State} {t : Token} {d : Bay} : ∀ (l : List Bay) (i k : Nat), l[k]? = some d →
    CanServe y t d → (∀ (j : Nat) (b : Bay), j < k → l[j]? = some b → ¬CanServe y t b) →
    y.walk t i l = y.handClaim t (i + k) d
  | [], _, _, h, _, _ => by simp at h
  | b :: rest, i, 0, h, hc, _ => by
    have : b = d := by simpa using h
    subst this
    rw [State.walk, if_pos ((y.eligible_iff t b).mpr hc), Nat.add_zero]
  | b :: rest, i, k + 1, h, hc, hn => by
    have : ¬y.eligible t b = true := fun e => hn 0 b (by omega) rfl ((y.eligible_iff t b).mp e)
    rw [State.walk, if_neg this, State.walk_found rest (i + 1) k (by simpa using h) hc
      (fun j c hj hx => hn (j + 1) c (by omega) (by simpa using hx))]
    congr 1
    omega

/-- With no bay of its list eligible the walk exhausts the candidates (R106). -/
theorem State.walk_none {y : State} {t : Token} : ∀ (l : List Bay) (i : Nat), (∀ b ∈ l, ¬CanServe y t b) →
    y.walk t i l = y.exhaust t
  | [], _, _ => rfl
  | b :: rest, i, h => by
    rw [State.walk, if_neg (fun e => h b (List.mem_cons_self ..) ((y.eligible_iff t b).mp e)),
      State.walk_none rest (i + 1) (fun c hc => h c (List.mem_cons_of_mem _ hc))]

theorem State.walkOn_found {y : State} {t : Token} {j : Nat} {d : Bay} (h : NextCandidate y t j d) :
    y.walkOn t = y.handClaim t j d := by
  obtain ⟨h1, h2, h3, h4⟩ := h
  have e : j = y.tap.position + 1 + (j - (y.tap.position + 1)) := by omega
  rw [State.walkOn, State.walk_found _ _ (j - (y.tap.position + 1)) ?_ h3 ?_, ← e]
  · rw [List.getElem?_drop, ← e]
    exact h2
  · intro k b hk hb
    rw [List.getElem?_drop] at hb
    exact h4 _ b (by omega) (by omega) hb

theorem State.walkOn_none {y : State} {t : Token} (h : ∀ (j : Nat) (d : Bay), ¬NextCandidate y t j d) :
    y.walkOn t = y.exhaust t := by
  have none : ∀ n k b, y.tap.position < k → k < y.tap.position + 1 + n → y.tap.candidates[k]? = some b →
      ¬CanServe y t b := by
    intro n
    induction n with
    | zero => exact fun k b h1 h2 => absurd h1 (by omega)
    | succ n ih =>
      intro k b h1 h2 h3 h4
      by_cases hk : k < y.tap.position + 1 + n
      · exact ih k b h1 hk h3 h4
      · exact h k b ⟨h1, h3, h4, fun j c j1 j2 => ih j c j1 (by omega)⟩
  rw [State.walkOn, State.walk_none]
  intro b hb
  obtain ⟨k, hk⟩ := List.getElem?_of_mem hb
  rw [List.getElem?_drop] at hk
  exact none (k + 1) _ b (by omega) (by omega) hk

/-- Eligibility looks at the configuration, the bay, the run and the records that wait (R100). -/
theorem canServe_of {s y : State} {t : Token} {d : Bay} (hi : y.image = s.image) (hb : y.bay d = s.bay d)
    (hs : y.store = s.store) (hr : y.runsAt d = s.runsAt d) : CanServe y t d ↔ CanServe s t d := by
  unfold CanServe State.pendingOf State.cfg
  rw [hi, hb, hs, hr]

theorem nextCandidate_of {s y : State} {t : Token} {j : Nat} {d : Bay} (ht : y.tap.position = s.tap.position)
    (hc : y.tap.candidates = s.tap.candidates) (he : ∀ b, CanServe y t b ↔ CanServe s t b) :
    NextCandidate y t j d ↔ NextCandidate s t j d := by
  unfold NextCandidate
  rw [ht, hc, he d]
  constructor
  · exact fun ⟨h1, h2, h3, h4⟩ => ⟨h1, h2, h3, fun k b i1 i2 i3 i4 => h4 k b i1 i2 i3 ((he b).mpr i4)⟩
  · exact fun ⟨h1, h2, h3, h4⟩ => ⟨h1, h2, h3, fun k b i1 i2 i3 i4 => h4 k b i1 i2 i3 ((he b).mp i4)⟩

/-! ### The hand-over -/

theorem State.entry_of_table {s t : State} (h : t.table = s.table) (u : TokenId) : t.entry u = s.entry u := by
  unfold State.entry
  rw [h]

/-- The post as the claim is handed over, before the bay asks for its run (R104, R124). -/
def State.handed (s : State) (t : Token) (i : Nat) (b : Bay) : State :=
  ((((s.setTap { s.tap with position := i, chosen := some b }).updateEntry t.id (fun e =>
    some (if e.status = .ownHeld then { e with bay := some b } else e))).updateBay b
      (fun r => { r with claim := some t.id, state := .releasing })).withdraw b)

/-- All that the hand-over of a held claim does (R104, R124). -/
theorem State.handClaim_spec {s : State} {t : Token} {b : Bay} {e : Entry} (i : Nat) (he : s.entry t.id = some e)
    (hs : e.status = .ownHeld) : ∃ tb d r, s.handClaim t i b =
      { s with
        table := tb, drive := d, run := r
        bays := s.bays.set b { s.bay b with claim := some t.id, state := .releasing }
        tap := { s.tap with position := i, chosen := some b, rotation := b, phase := .releaseStart } } ∧
      (s.handClaim t i b).entry t.id = some { e with bay := some b } ∧
      (∀ u, u ≠ t.id → (s.handClaim t i b).entry u = s.entry u) ∧
      (s.runsAt b = false → Asks b (.role .release) (s.handClaim t i b)) ∧
      (∀ h, s.run = none → s.drive.holder = some h → (s.handClaim t i b).run = none ∧ (s.handClaim t i b).drive =
        { s.drive with waiting := s.drive.waiting.filter (fun q => q.bay != b) ++ [⟨b, .role .release⟩] }) := by
  obtain ⟨tb, d, r, h⟩ := s.handClaim_sets t i b
  refine ⟨tb, d, r, h, ?_⟩
  have asked : s.handClaim t i b = ((s.handed t i b).requestRun b (.role .release)).setTap
      { ((s.handed t i b).requestRun b (.role .release)).tap with rotation := b, phase := .releaseStart } := rfl
  obtain ⟨d', r', hr⟩ := (s.handed t i b).requestRun_sets b (.role .release)
  have entries : ∀ u, (s.handClaim t i b).entry u =
      if u = t.id then (s.entry t.id).map (fun e => if e.status = .ownHeld then { e with bay := some b } else e)
      else s.entry u := by
    intro u
    have named := (s.setTap { s.tap with position := i, chosen := some b }).entry_changed t.id u
      (fun e => if e.status = .ownHeld then { e with bay := some b } else e) (fun e => by split <;> rfl)
    have same : (s.handClaim t i b).table = (s.handed t i b).table := by
      rw [asked, hr]
      rfl
    rw [State.entry_of_table same u]
    exact named
  have waits : (s.handed t i b).requestWaits b = false := by
    unfold State.requestWaits
    rw [List.any_eq_false]
    intro q hq
    have := (List.mem_filter.mp hq).2
    simpa using this
  refine ⟨?_, fun u hu => ?_, fun hrun => ?_, fun g hrun hold => ?_⟩
  · rw [entries, if_pos rfl, he, Option.map_some, if_pos hs]
  · rw [entries, if_neg hu]
  · have want : (s.handed t i b).wantsDrive b = false :=
      (State.wantsDrive_false_iff _ b).mpr ⟨waits, hrun⟩
    exact Asks.of ((s.handed t i b).requestRun_asks b (.role .release) want) rfl rfl
  · have e := State.requestRun_held (y := s.handed t i b) (b := b) (h := g) (run := .role .release) hrun hold waits
    rw [asked, e]
    exact ⟨hrun, rfl⟩

/-! ### The end without a bay -/

/-- A frame queued where the protocol queue has room waits there (R46, R47). -/
theorem State.queueProtocol_mem (s : State) (f : Frame) (h : s.rlc.protocol.length < 12) :
    (⟨f, 0⟩ : Queued) ∈ (s.queueProtocol f).rlc.protocol := by
  unfold State.queueProtocol
  dsimp only
  rw [if_pos h]
  exact List.mem_append_right _ (List.mem_cons_self ..)

/-- All that the lapse of a held claim does (R64, R65). -/
theorem State.lapseClaim_spec {s : State} {t : TokenId} {e : Entry} (reason : LapseReason) (hl : TableLaw s)
    (he : s.entry t = some e) (hs : e.status = .ownHeld) :
    (s.lapseClaim t reason).entry t = none ∧ (∀ u, u ≠ t → (s.lapseClaim t reason).entry u = s.entry u) ∧
      (s.rlc.protocol.length < 12 → (⟨.lapse t reason, 0⟩ : Queued) ∈ (s.lapseClaim t reason).rlc.protocol) := by
  obtain ⟨p, a, h⟩ := (s.removeHeld t).queueProtocol_sets (.lapse t reason)
  have same : (s.lapseClaim t reason).table = (s.removeHeld t).table := by
    unfold State.lapseClaim
    rw [h]
  refine ⟨?_, fun u hu => ?_, fun hlen => State.queueProtocol_mem _ _ hlen⟩
  · rw [State.entry_of_table same]
    exact s.entry_removed t _ hl (fun x hx => by
      rw [he] at hx
      cases hx
      exact if_pos hs)
  · rw [State.entry_of_table same]
    exact s.entry_updateEntry_ne t u _ hu (fun x y hx hy => by
      split at hy
      · cases hy
      · cases hy
        exact hx)

/-- All that the end of a held claim without a bay does (R106). -/
theorem State.exhaust_spec {s : State} {t : Token} {e : Entry} (hl : TableLaw s) (he : s.entry t.id = some e)
    (hs : e.status = .ownHeld) : ∃ tb l st aq p q a, s.exhaust t =
      { s with
        table := tb, link := l, store := st, aq := aq
        tap := { s.tap with phase := .verdict, verdict := some .bayFault }
        rlc := { s.rlc with protocol := p, service := q, attempt := a } } ∧
      (s.exhaust t).entry t.id = none ∧ (∀ u, u ≠ t.id → (s.exhaust t).entry u = s.entry u) ∧
      (s.rlc.protocol.length < 12 → (⟨.lapse t.id .noBay, 0⟩ : Queued) ∈ (s.exhaust t).rlc.protocol) ∧
      Recorded (.noBay t.id) s (s.exhaust t).store ∧ Told (.verdict .bayFault .transaction) (s.exhaust t) ∧
      (∀ m, Told m s → Told m (s.exhaust t)) ∧ ∀ x, x ∈ attentionPairs s → x ∈ attentionPairs (s.exhaust t) := by
  obtain ⟨tb, l, st, aq, p, q, a, h⟩ := s.exhaust_sets t
  refine ⟨tb, l, st, aq, p, q, a, h, ?_⟩
  obtain ⟨h1, h2, h3⟩ := State.lapseClaim_spec .noBay hl he hs
  obtain ⟨tb', p', a', hc⟩ := s.lapseClaim_sets t.id .noBay
  have hr := State.handOver_recorded (s := s) (x := s.lapseClaim t.id .noBay) (.noBay t.id) (by rw [hc]) (by rw [hc])
    (by rw [hc])
  have hp := (s.lapseClaim t.id .noBay).handOver_pairs false (.noBay t.id)
  generalize hz : (s.lapseClaim t.id .noBay).handOver false (.noBay t.id) = z at hr hp
  obtain ⟨st', aq', q', ho⟩ := (s.lapseClaim t.id .noBay).handOver_sets false (.noBay t.id)
  rw [hz] at ho
  have e1 : s.exhaust t = z.endTransaction .bayFault := by rw [← hz]; rfl
  rw [e1]
  have tz : z.table = (s.lapseClaim t.id .noBay).table := by rw [ho]
  refine ⟨?_, fun u hu => ?_, fun hlen => ?_, hr, z.endTransaction_told _, fun m hm => ?_, fun x hx => hp x ?_⟩
  · exact (State.entry_of_table tz _).trans h1
  · exact (State.entry_of_table tz _).trans (h2 u hu)
  · show _ ∈ z.rlc.protocol
    rw [ho]
    exact h3 hlen
  · refine State.placeMessage_keeps _ _ _ (Told.of_link hm ?_)
    show z.link = _
    rw [ho, hc]
  · rw [attentionPairs_of_aq (s := s) (by rw [hc])]
    exact hx

end Sys2Proof.Machine
end

