-- ==== Sys2Proof/Tests/Slice0.lean ====
section
/-! SUPPORT. Tests: the well-formedness checks, the spec's worked numbers, one step of each command on a small state, and for
each obligation states and operands that meet its hypotheses, at the ends of their ranges. -/

namespace Sys2Proof.Tests

open Sys2Proof.Machine Sys2Proof.Safety

/- Elaborated one after the other: each thread takes its own share of the memory that the check leaves. -/
set_option Elab.async false

/-! ### States and operands -/

/-- The profiles of the worked example of chapter 8. -/
def profiles : List (List Step) :=
  [ [⟨.inward 1, false, .untilSees .home true 64⟩],
    [⟨.inward 30, true, .stopWhen .home true⟩, ⟨.inward 1, false, .untilSees .home true 24⟩],
    [⟨.inward 1, false, .untilSees .home true 60⟩, ⟨.out 30, false, .plain⟩, ⟨.out 1, false, .edge .clear 40⟩,
     ⟨.dwell 40, false, .plain⟩],
    [⟨.inward 1, false, .untilSees .home true 4⟩], [], [], [], [] ]

/-- A configuration that start-up accepts. -/
def image : Image :=
  { site := 301, gateway := 0, baysFitted := 4, settleMs := 500, takeS := 30, skewS := 60, beaconLossMin := 10,
    joinWindowS := 10, dumpStaggerMs := 20, actionStaggerMs := 100, actionMask := 0x0FFF, notices := true, noticeDest := 0,
    attentionMask := 0, segments := 8, clearMode := .auto, patrolMin := 60, coldMode := .auto, coldSensor := true,
    stepMs := 6, roles := ⟨2, 1, 0, 3, 2, 1⟩, profiles := profiles, siteKey := 0x000102030405060708090A0B0C0D0E0F }

/-- A bay that holds bicycle 40117 of class 1. -/
def docked : BayRecord :=
  { BayRecord.reset with state := .docked, bikeId := some 40117, bikeClass := some 1, clearPoint := some 36 }

/-- The inputs of a bay with a locked bicycle. -/
def locked : BayInputs := ⟨true, true, true, false, false⟩

/-- The inputs of an empty bay with its bolt at clear. -/
def open' : BayInputs := ⟨false, false, false, true, false⟩

/-- Post 8 in SERVICE with its stamp SET at 72000 and four bicycles. -/
def post : State :=
  { State.reset with
    mode := .service, strap := 8, image := some image, ssu := ⟨some 72000, .set, some 600000, some 1000⟩,
    bays := ⟨docked, docked, docked, docked⟩, inputs := ⟨locked, locked, locked, locked⟩ }

/-- A token for this site, any post, any bay, class 1, with no check value. -/
def token : Token :=
  { id := 0xC44, site := 301, targetPost := 255, targetBay := 255, classHigh := 0, cls := 1, notBefore := 71000,
    notAfter := 75600, check := 0 }

/-- The token with the check value the back office computes. -/
def genuine : Token := { token with check := Config.keyedCode image.siteKey token.checkedBits }

/-- The token with another check value. -/
def forged : Token := { token with check := Config.keyedCode image.siteKey token.checkedBits ^^^ 1 }

/-- The table with one entry, at index 0. -/
def tableOf (e : Entry) : List (Option Entry) := (List.replicate 256 none).set 0 (some e)

/-- The post's own entry for the token, at bay 3. -/
def own (status : EntryStatus) : Entry := ⟨0xC44, status, some 8, some 3, 75660, false⟩

/-- A peer's entry for the token. -/
def peer : Entry := ⟨0xC44, .peerClaimed, some 5, some 2, 75660, false⟩

/-- The post with one entry in its table. -/
def knowing (e : Entry) : State := { post with table := tableOf e }

/-- The post with a transaction for the token in a phase, bay 3 chosen. -/
def serving (phase : TapPhase) (e : Entry) : State :=
  { knowing e with
    bays := ⟨docked, docked, docked, { docked with state := .reserved }⟩
    tap := { TapRecord.reset with phase := phase, token := some token, chosen := some 3, candidates := [3, 0] } }

/-- Frames waiting in the protocol queue, the first under way in a phase. -/
def sending (phase : AttemptPhase) (vetoes : Nat) (f : Frame) (settled : Settled) (s : State) : State :=
  { s with rlc := ⟨[⟨f, vetoes⟩], [], some ⟨phase, .protocol, 0, settled, false⟩, false⟩ }

/-- The same in the service queue. -/
def serviceSending (f : Frame) (settled : Settled) (s : State) : State :=
  { s with rlc := ⟨[], [⟨f, 0⟩], some ⟨.sending, .service, 0, settled, false⟩, false⟩ }

/-- A frame from a station to all. -/
def toAll (rank : BitVec 3) (source : Addr) (payload : List Byte) : RowFrame := ⟨rank, source, .all, payload⟩

/-- A frame from the gateway to post 8. -/
def toPost (rank : BitVec 3) (payload : List Byte) : RowFrame := ⟨rank, 0, .one 8, payload⟩

/-- Token 0xC44 in a payload. -/
def c44 : List Byte := [0, 0, 0, 0, 0, 0, 0x0C, 0x44]

/-- The state a command leaves. -/
def after (c : Instr) (s : State) : State :=
  match exec c s with
  | .next t => t
  | _ => s

/-- A run in progress at bay 0. -/
def runOf (run : RunFor) (steps : List Step) (index made : Nat) : Run :=
  { bay := 0, run := run, steps := steps, clearPoint := some 36, cold := false, index := index, made := made,
    edge := .seekLow, outs := 0, measured := none, stop := false }

/-- The post with bay 0 in a state and a run of it in progress. -/
def running (state : BayState) (r : Run) : State :=
  { post with
    bays := ⟨{ docked with state := state }, docked, docked, docked⟩, run := some r, drive := ⟨[], some 0⟩ }

/-- A gateway frame to all reaches a post that hears it. -/
theorem fromGateway (rank : BitVec 3) (payload : List Byte) (s : State)
    (h : s.mode ≠ .starting ∧ s.rlc.attempt = none ∧ (0 : Addr) ≠ s.strap ∧ s.mode ≠ .configFault ∧ (0 : Addr) = s.cfg.gateway) :
    TakenFromGateway rank.toNat (toAll rank 0 payload) s :=
  ⟨⟨h.1, h.2.1, h.2.2.1⟩, h.2.2.2.1, rfl, h.2.2.2.2, trivial⟩

/-- A gateway frame to post 8 reaches it. -/
theorem fromGatewayTo8 (rank : BitVec 3) (payload : List Byte) (s : State)
    (h : s.mode ≠ .starting ∧ s.rlc.attempt = none ∧ (0 : Addr) ≠ s.strap ∧ s.mode ≠ .configFault ∧ (0 : Addr) = s.cfg.gateway ∧
      (8 : Addr) = s.strap) : TakenFromGateway rank.toNat (toPost rank payload) s :=
  ⟨⟨h.1, h.2.1, h.2.2.1⟩, h.2.2.2.1, rfl, h.2.2.2.2.1, h.2.2.2.2.2⟩

/-! ### Well-formed commands -/

/-- A payload of 256 bytes. -/
def tooLong : List Byte := List.replicate 256 0

theorem test_wf_payload_length :
    (Instr.lapse (toAll 1 5 tooLong)).wf = false ∧ (Instr.hold (toAll 2 0 tooLong)).wf = false ∧
      (Instr.lapse (toAll 1 5 (tooLong.take 255))).wf = true := by decide +kernel

theorem test_wf_discarded_payload_length :
    (Instr.serviceFrameDiscarded .logData (toAll 5 5 tooLong)).wf = false := by decide +kernel

theorem test_wf_record_length :
    (Instr.endOfStartUp (some (List.replicate 439 0))).wf = false ∧
      (Instr.endOfStartUp (some (List.replicate 438 0))).wf = true := by decide +kernel

theorem test_wf_vetoed_frame_was_read : (Instr.frameVetoed (.other [])).wf = false := by decide

theorem test_wf_length_byte : (Instr.wrongLengthByte 31).wf = false ∧ (Instr.wrongLengthByte 30).wf = true := by decide

theorem test_wf_present_length : (Instr.presentFullyArrived (List.replicate 30 0)).wf = false := by decide

theorem test_wf_tag_answer_length : (Instr.tagReadAttemptCompletion 0 (List.replicate 7 0)).wf = false := by decide

theorem test_wf_unknown_kind :
    (Instr.unknownKindFrame 2 (toAll 1 5 [])).wf = false ∧ (Instr.unknownKindFrame 17 (toAll 1 5 tooLong)).wf = false ∧
      (Instr.unknownKindFrame 6 (toPost 2 [12, 0, 0])).wf = false ∧ (Instr.unknownKindFrame 6 (toPost 2 [13, 0, 0])).wf = true ∧
      (Instr.unknownKindFrame 17 (toAll 1 5 [])).wf = true ∧ (Instr.unknownKindFrame 2 (toAll 6 5 [])).wf = true := by decide +kernel

/-! ### Layouts -/

/-- The check word of the digits 1 to 9, the check value the polynomial and initial value of R181 are known by. -/
theorem test_check_word : checkWord [0x31, 0x32, 0x33, 0x34, 0x35, 0x36, 0x37, 0x38, 0x39] = 0x29B1 := by decide +kernel

/-- The encoded CLAIM of chapter 12. -/
def encodedClaim : List Byte := [0x26, 2, 0x80, 0, 0x0D] ++ [0, 0, 0, 0, 0, 0, 0x0B, 7, 0, 0, 0, 0xF1, 0xE0]

theorem test_claim_bytes : ({ post with strap := 6 } : State).frameBytes (.claim 0xB07 0 61920) .fixed = encodedClaim := by
  decide +kernel

theorem test_claim_check_and_stuff_bits :
    checkWord encodedClaim = 0xAA3A ∧ (lineLevels encodedClaim).length = 181 ∧ damaged (lineLevels encodedClaim) = false := by
  decide +kernel

/-- Bay 4 in the payload: sound, and out of range at dispatch. -/
theorem test_claim_for_bay_4 :
    readClaim [0, 0, 0, 0, 0, 0, 0x0B, 7, 4, 0, 0, 0xF1, 0xE0] = none ∧
      readClaim [0, 0, 0, 0, 0, 0, 0x0B, 7, 0, 0, 0, 0xF1, 0xE0] = some (0xB07, 0, 61920) := by decide +kernel

theorem test_verdict_bytes :
    TapMessage.bytes (.verdict (.granted 3) .transaction) = [4, 0x81, 1, 3, 0x77] ∧
      TapMessage.bytes (.bayLight 2 .fault) = [4, 0x82, 2, 3, 0x75] := by decide +kernel

theorem test_tag_answers :
    readTag [0, 0, 0x9C, 0xB5, 1, 0x72] = some (40117, 1) ∧ readTag [0, 0, 0x9C, 0xB5, 1, 0x73] = none ∧
      readTag [0, 0, 0, 0, 1, 0x5B] = none ∧ readTag [0, 0, 0x9C, 0xB5, 4, 0x77] = none := by decide +kernel

theorem test_record_bytes :
    RentalRecord.bytes ⟨9216, some 72000, true, true, .start 1 0xE51 (some 40117) (some 1) true⟩ =
      [1, 0xEF, 0x24, 0, 0, 1, 0x19, 0x40, 1, 1, 0, 0, 0x9C, 0xB5] ++ [0, 0, 0, 0, 0, 0, 0x0E, 0x51, 0] := by decide +kernel

/-- A profile slot of the record. -/
def slot (count : Nat) (steps : List (List Byte)) : List Byte :=
  BitVec.ofNat 8 count :: (steps.flatten ++ List.replicate (48 - 4 * steps.length) 0)

/-- The record of `image` before its check word. -/
def recordHead : List Byte :=
  [1, 0x2D, 0, 4, 5, 30, 0, 60, 10, 10, 20, 0, 100, 0x0F, 0xFF, 0, 0, 0, 13, 8, 60, 6, 2, 1, 0, 3, 2, 1]
    ++ slot 1 [[0x40, 0xA1, 1, 64]] ++ slot 2 [[0x60, 0x61, 30, 0], [0x40, 0xA1, 1, 24]]
    ++ slot 4 [[0x40, 0xA1, 1, 60], [0, 0, 30, 0], [0, 0xF0, 1, 40], [0x80, 0, 40, 0]] ++ slot 1 [[0x40, 0xA1, 1, 4]]
    ++ slot 0 [] ++ slot 0 [] ++ slot 0 [] ++ slot 0 []
    ++ [0, 1, 2, 3, 4, 5, 6, 7, 8, 9, 10, 11, 12, 13, 14, 15]

/-- A whole valid record. -/
def record : List Byte := recordHead ++ [0xDA, 0xE5]

theorem test_record_is_read : imageOf 8 (some record) = some image := by decide +kernel

/-- The gateway's address on the strap pins, a wrong check word, and a read cut short make the record invalid. -/
theorem test_records_refused :
    imageOf 0 (some record) = none ∧ imageOf 8 (some (recordHead ++ [0xDA, 0xE4])) = none ∧ imageOf 8 (some recordHead) = none ∧
      imageOf 8 none = none := by decide +kernel

/-! ### Hypotheses met: the queue, resets and send starts -/

theorem witness_StepTakesTheFrontCommand : post.pending = [] := by decide

theorem witness_StartUpEndsInJoiningOrConfigFault :
    State.reset.mode = .starting ∧ imageOf State.reset.strap none = none ∧
      ({ State.reset with strap := 8, inputs := post.inputs, cold := true, pending := [.startMarker] } : State).mode = .starting ∧
      imageOf 8 (some record) = some image := by decide +kernel

/-- The post with frames waiting and no attempt. -/
def waiting (protocol service : List Queued) : State := { post with rlc := ⟨protocol, service, none, false⟩ }

/-- The own CLAIM for token 0xC44. -/
def ownClaim : Frame := .claim 0xC44 3 75660

/-- The post with its CLAIM waiting and an entry for the token. -/
def claiming (e : Entry) : State := { serving .claiming e with rlc := ⟨[⟨ownClaim, 0⟩], [], none, false⟩ }

theorem witness_SendStartOffersTheHeadOrWithdrawsAClaim :
    (post.mode ≠ .starting ∧ post.rlc.attempt = none ∧ (Frame.object 1 5 .spent).kind = .object ∧
      (Frame.lapse 1 .noBay).kind = .lapse ∧ Frame.join.kind = .join ∧ (Frame.logReady 0 0).kind ≠ .statusReply ∧
      post.rlc.protocol = [] ∧ post.rlc.service = []) ∧
      (claiming (own .ownPending)).mode ≠ .starting ∧ (claiming (own .ownPending)).rlc.attempt = none ∧
      (claiming (own .ownPending)).entry 0xC44 = some (own .ownPending) ∧
      (own .ownPending).claimant = some (claiming (own .ownPending)).strap ∧
      (claiming peer).entry 0xC44 = some peer ∧ peer.status ≠ .ownPending ∧ (claiming peer).rlc.service = [] ∧
      (waiting [⟨ownClaim, 7⟩, ⟨.dump, 0⟩] []).entry 0xC44 = none := by decide +kernel

/-- A table whose places below 255 are taken by another token's entries. -/
def full : List (Option Entry) := List.replicate 255 (some { peer with token := 1 }) ++ [none]

theorem witness_SendStartReadsTheTableForADump :
    let s := waiting [⟨.dump, 7⟩] []
    let e : State := { waiting [⟨.dumpEnd, 7⟩, ⟨.dump, 0⟩] [] with ju := { JoinUnit.reset with cursor := .atEnd } }
    s.mode ≠ .starting ∧ s.rlc.attempt = none ∧ s.ju.cursor = .index 0 ∧ occupied s.table 0 = [] ∧
      occupied full 251 = [251, 252, 253, 254] ∧ occupied full 250 = [250, 251, 252, 253, 254] ∧
      (occupied full 0)[3]? = some 3 ∧ e.ju.cursor = .atEnd ∧ e.rlc.attempt = none := by decide +kernel

theorem witness_StatusQueriesAreAnswered :
    let f := toPost 4 [1]
    let g : RowFrame := ⟨4, 5, .one 8, [0]⟩
    let s := waiting (List.replicate 3 ⟨.join, 0⟩) (List.replicate 3 ⟨.logReady 0 0, 0⟩)
    let u : State := { waiting [] [⟨.statusReply 5 false, 7⟩] with mode := .configFault }
    (Heard f s ∧ f.source = s.cfg.gateway ∧ f.dest = .one s.strap ∧ f.rank.toNat = 4 ∧
      readStatusQuery f.payload = some true ∧ s.rlc.service.length < 4) ∧
      Heard g u ∧ u.mode = .configFault ∧ readStatusQuery g.payload = some false ∧ u.rlc.protocol = [] ∧
      u.rlc.attempt = none ∧ 4 ≤ (waiting [] (List.replicate 4 ⟨.logReady 0 0, 0⟩)).rlc.service.length := by
  unfold Heard
  decide +kernel

/-! ### Hypotheses met: attempts and echoes -/

theorem witness_AttemptsAreWonLostOrVetoed :
    let s := sending .arbitrating 7 .join .fixed post
    let r : State := { s with rlc := { s.rlc with attempt := some ⟨.arbitrating, .protocol, 0, .fixed, true⟩ } }
    (s.rlc.attempt = some ⟨.arbitrating, .protocol, 0, .fixed, false⟩ ∧ s.restartDue = false ∧
      r.rlc.attempt = some ⟨.arbitrating, .protocol, 0, .fixed, true⟩ ∧ r.restartDue = false) ∧
    Sending (.logReady 0 0) 0 ⟨.sending, .service, 0, .fixed, false⟩ (serviceSending (.logReady 0 0) .fixed post) ∧
    (let a : Attempt := ⟨.sending, .protocol, 0, .fixed, true⟩
     Sending .join 7 a { s with rlc := { s.rlc with attempt := some a } }) ∧
    post.masked .line = false ∧
    Sending ownClaim 6 ⟨.sending, .protocol, 0, .fixed, false⟩
        (sending .sending 6 ownClaim .fixed (serving .claiming (own .ownPending))) ∧
      (sending .sending 6 ownClaim .fixed (serving .claiming (own .ownPending))).restartDue = false ∧
      post.mode ≠ .starting ∧ post.rlc.attempt = none := by
  unfold Sending
  decide +kernel

/-- The post in the middle of a dump. -/
def dumping (owed : Bool) : State := { post with ju := { JoinUnit.reset with dump := .dumping, owed := owed } }

/-- An attention entry. -/
def trouble : Attention := ⟨.table, .tablePressure, some 72000, 7⟩

/-- The post with that entry, marked, in its queue. -/
def troubled : State := { post with aq := ⟨[⟨trouble, true⟩], [], false⟩ }

/-- A post with its bay 3 FAULTED. -/
def bayLost (s : State) : State := { s with bays := ⟨docked, docked, docked, { docked with state := .faulted }⟩ }

theorem witness_TheEighthVetoDropsTheFrame :
    let a : Attempt := ⟨.sending, .protocol, 0, .fixed, false⟩
    let s := sending .sending 7 (.lapse 0xC44 .noBay) .fixed post
    let c := sending .sending 7 (.claim token.id 3 75660) .fixed (serving .claiming (own .ownPending))
    let j := sending .sending 7 .join .fixed { post with mode := .joining, ju := { JoinUnit.reset with join := .announcing } }
    let n : State := { troubled with rlc := ⟨[], [⟨.notice trouble, 7⟩], some ⟨.sending, .service, 0, .fixed, false⟩, false⟩ }
    (Sending (.lapse 0xC44 .noBay) 7 a s ∧ s.restartDue = false ∧ s.mode.working = true ∧ s.masked .line = false ∧
      s.rlc.protocol.length ≤ 12) ∧
      (Sending (.claim token.id 3 75660) 7 a c ∧ c.tap.phase = .claiming ∧ c.tap.token = some token ∧
        c.tap.chosen = some 3 ∧ (c.bay 3).state = .reserved) ∧
      (Sending (.claim token.id 3 75660) 7 a (bayLost c) ∧ ((bayLost c).bay 3).state ≠ .reserved) ∧
      Sending (.object 0xC44 5 .void) 7 a (sending .sending 7 (.object 0xC44 5 .void) .fixed post) ∧
      (Sending .join 7 a j ∧ j.ju.join = .announcing) ∧
      (Sending .dump 7 a (sending .sending 7 .dump .fixed (dumping false)) ∧ (dumping false).ju.owed = false) ∧
      (Sending .dumpEnd 7 a (sending .sending 7 .dumpEnd .fixed (dumping true)) ∧ (dumping true).ju.owed = true) ∧
      Sending (.notice trouble) 7 ⟨.sending, .service, 0, .fixed, false⟩ n := by
  unfold Sending
  decide +kernel

theorem witness_ClaimLapseObjectAndJoinEchoes :
    let a : Attempt := ⟨.sending, .protocol, 0, .fixed, false⟩
    let s := sending .sending 7 .join .fixed { post with mode := .joining, ju := { JoinUnit.reset with join := .announcing } }
    let c := sending .sending 0 ownClaim .fixed (serving .claiming (own .ownPending))
    (s.restartDue = false ∧ Sending (.lapse 0xC44 .notTaken) 0 a (sending .sending 0 (.lapse 0xC44 .notTaken) .fixed post) ∧
      Sending (.object 0xC44 5 .void) 0 a (sending .sending 0 (.object 0xC44 5 .void) .fixed post) ∧ Sending .join 7 a s ∧
      s.ju.join = .announcing) ∧
      Sending (.claim token.id 3 75660) 0 a c ∧ c.restartDue = false ∧ c.tap.phase = .claiming ∧
      c.tap.token = some token := by
  unfold Sending
  decide +kernel

theorem witness_DumpAndDumpEndEchoes :
    let settled : Settled := .dump 0 [⟨0xC44, .claimed, some 5, some 2, 75660⟩] .atEnd
    let s := sending .sending 0 .dump settled (dumping false)
    let t := sending .sending 0 .dumpEnd (.dumpEnd 0 0 .unset none) (dumping true)
    s.restartDue = false ∧ s.rlc.protocol.length ≤ 10 ∧ Sending .dump 0 ⟨.sending, .protocol, 0, settled, false⟩ s ∧
      Sending .dumpEnd 0 ⟨.sending, .protocol, 0, .dumpEnd 0 0 .unset none, false⟩ t ∧ s.ju.owed = false ∧
      t.ju.owed = true := by
  unfold Sending
  decide +kernel

/-- The store with segment 0 flagged and read to slot 119. -/
def read119 : RecordStore :=
  { RecordStore.reset with
    flags := [true, false, false, false, false, false, false, false], cursors := [119, 0, 0, 0, 0, 0, 0, 0], writer := 200 }

/-- Eight records. -/
def eight : List RentalRecord := List.replicate 8 ⟨0, none, false, false, .resetMark⟩

theorem witness_StoreFrameEchoes :
    let f (start : BitVec 16) : Frame := .logData 0 0 start eight (start == 120) none true
    let s := serviceSending (f 119) .fixed { post with store := read119 }
    let e := serviceSending (f 120) .fixed { post with
      store := { read119 with cursors := [120, 0, 0, 0, 0, 0, 0, 0] }, image := some { image with clearMode := .explicit } }
    let c := serviceSending (f 120) .fixed { post with store := { read119 with cursors := [120, 0, 0, 0, 0, 0, 0, 0] } }
    let a : Attempt := ⟨.sending, .service, 0, .fixed, false⟩
    (s.restartDue = false ∧ Sending (f 119) 0 a s ∧ (119 : BitVec 16).toNat + eight.length ≠ s.segmentSize ∧
      s.flagged 0 = true ∧ s.store.cursors.getD 0 0 = 119) ∧
      (Sending (f 120) 0 a e ∧ e.cfg.clearMode = .explicit ∧ e.flagged 0 = true ∧ e.store.cursors.getD 0 0 = 120) ∧
      (Sending (f 120) 0 a c ∧ c.cfg.clearMode = .auto ∧ (120 : BitVec 16).toNat + eight.length = c.segmentSize ∧
        c.blocked = false) ∧
      (Sending (f 118) 0 a (serviceSending (f 118) .fixed { post with store := read119 }) ∧
        read119.cursors.getD 0 0 ≠ 118) ∧
      Sending (.logReady 7 9088) 0 ⟨.sending, .service, 0, .fixed, false⟩ (serviceSending (.logReady 7 9088) .fixed post) := by
  unfold Sending
  decide +kernel

/-- The post with bay 3 in a state and its inputs at levels. -/
def bay3 (state : BayState) (i : BayInputs) : State :=
  { post with bays := post.bays.set 3 { docked with state := state }, inputs := post.inputs.set 3 i }

/-- The store BLOCKED on segment 0, read to slot 120, with two records waiting. -/
def stuck : RecordStore :=
  { read119 with
    cursors := [120, 0, 0, 0, 0, 0, 0, 0], writer := 0, nextSeq := 9216, waiting := [.returned 3 none none false, .resetMark] }

/-- Bay 3 in a tag read attempt. -/
def reading (n : Nat) (state : BayState) (failed : Option FaultCode) : State :=
  { post with bays := post.bays.set 3 { BayRecord.reset with state := state, tagRead := some n, failedDock := failed } }

theorem witness_RecordsFillBlockAndDrainTheStore :
    let s : State := { reading 1 .docking none with store := { read119 with writer := 1023 } }
    let b : State := { reading 3 .docking none with store := stuck }
    let c : State := { bay3 .empty { open' with seat := true } with store := stuck }
    let e := serviceSending (.logData 0 0 120 eight true none true) .fixed c
    (s.mode.working = true ∧ (s.bay 3).tagRead = some 1 ∧ (s.bay 3).state = .docking ∧ (s.bay 3).failedDock = none ∧
      s.blocked = false ∧ s.store.writer % s.segmentSize = s.segmentSize - 1 ∧ s.rlc.service.length < 4 ∧
      s.masked .store = false ∧ b.blocked = true ∧ (b.bay 3).tagRead = some 3 ∧
      readTag [0, 0, 0x9C, 0xB5, 1, 0x72] = some (40117, 1)) ∧
      (StoreLaw c ∧ DriveLaw c ∧ c.blocked = true ∧ (0 : Byte).toNat = c.writerSegment ∧
        c.store.waiting.length < c.segmentSize ∧ c.store.writer + c.store.waiting.length < 1024 ∧ readLogClear [0] = some 0 ∧ (0 : Byte).toNat < c.cfg.segments ∧
        (c.bay 3).state = .empty ∧ (c.input 3).seat = true ∧ c.pendingOf 3 ≠ [] ∧ c.wantsDrive 3 = false) ∧
      TakenFromGateway 4 (toPost 4 [0]) c ∧ StoreLaw e ∧ DriveLaw e ∧ e.blocked = true ∧ e.cfg.clearMode = .auto ∧
      Sending (.logData 0 0 120 eight true none true) 0 ⟨.sending, .service, 0, .fixed, false⟩ e ∧
      e.store.cursors.getD 0 0 = 120 ∧ (120 : BitVec 16).toNat + eight.length = e.segmentSize := by
  refine ⟨by decide +kernel, ?_, fromGatewayTo8 4 _ _ (by decide), ?_⟩
  · unfold StoreLaw DriveLaw
    decide +kernel
  · unfold StoreLaw DriveLaw Sending
    decide +kernel

/-- The post in a mode, its transaction in a phase. -/
def inMode (mode : PostMode) (phase : TapPhase) : State := { post with mode := mode, tap := { TapRecord.reset with phase := phase } }

/-- DUPLICATE ADDRESS on LINE, counted so often. -/
def duplicate (n : Nat) : Attention := ⟨.line, .duplicateAddress, none, n⟩

/-- The post with one entry, marked, in its queue, and a WARN of a bay, an INFO of the post and a FAULT of a bay waiting. -/
def crowd : State :=
  { troubled with aq := { troubled.aq with
    waiting := [⟨.bay 1, .tagUnread, none, 2⟩, ⟨.post, .coldJoin, none, 1⟩, ⟨.bay 3, .forcedRemoval, none, 255⟩] } }

theorem crowd_highest : Highest crowd.aq.waiting 2 ⟨.bay 3, .forcedRemoval, none, 255⟩ := by
  refine ⟨rfl, fun j b hj hne => ?_⟩
  match j with
  | 0 => cases hj; exact .inl (by decide)
  | 1 => cases hj; exact .inl (by decide)
  | 2 => exact absurd rfl hne
  | k + 3 => cases hj

theorem witness_RaisedCodesAreCountedAndPromoted :
    let once (q : List QueuedAttention) (w : List Attention) : State := { post with aq := ⟨q, w, false⟩ }
    let s := serviceSending (.notice trouble) .fixed crowd
    (post.mode.working = true ∧ post.rlc.attempt = none ∧ post.masked .line = false ∧ AttentionLaw post ∧
      post.aq.queue = [] ∧ post.cfg.notices = true ∧ (Source.line, Code.duplicateAddress) ∉ attentionPairs post ∧
      (inMode .configFault .idle).mode = .configFault ∧ AttentionLaw (once [⟨duplicate 255, true⟩] []) ∧
      AttentionLaw (once [] [duplicate 254])) ∧
      (AttentionLaw s ∧ s.restartDue = false ∧ Sending (.notice trouble) 0 ⟨.sending, .service, 0, .fixed, false⟩ s ∧
        (∃ e ∈ s.aq.queue, e.noticed = true) ∧
        Sending (.statusReply 0 true) 0 ⟨.sending, .service, 0, crowd.settleStatus, false⟩
          (serviceSending (.statusReply 0 true) crowd.settleStatus crowd) ∧
        (crowd.statusBody).attention ≠ none) ∧
      Highest s.aq.waiting 2 ⟨.bay 3, .forcedRemoval, none, 255⟩ := by
  refine ⟨?_, ?_, crowd_highest⟩
  · unfold AttentionLaw
    decide +kernel
  · unfold AttentionLaw Sending
    decide +kernel

/-- The 16 pairs of four codes and the sources of four bays. -/
def sixteen : List QueuedAttention :=
  [Code.forcedRemoval, .latchFail, .driverFault, .tagUnread].flatMap (fun c =>
    ([0, 1, 2, 3] : List Bay).map (fun b => ⟨⟨.bay b, c, none, 1⟩, false⟩))

theorem witness_FullAttentionQueue :
    let s : State := { post with aq := ⟨sixteen, [], false⟩ }
    AttentionLaw s ∧ 16 ≤ s.aq.queue.length ∧ (Source.line, Code.duplicateAddress) ∉ attentionPairs s := by
  unfold AttentionLaw
  decide +kernel

theorem witness_NoticeAndStatusReplyEchoes :
    let s := serviceSending (.notice trouble) .fixed troubled
    let t := serviceSending (.statusReply 0 true) troubled.settleStatus troubled
    s.restartDue = false ∧ s.aq.waiting = [] ∧ Sending (.notice trouble) 0 ⟨.sending, .service, 0, .fixed, false⟩ s ∧
      Sending (.statusReply 0 true) 0 ⟨.sending, .service, 0, troubled.settleStatus, false⟩ t ∧
      troubled.settleStatus.carriesEntry = true := by
  unfold Sending
  decide +kernel

/-! ### Hypotheses met: frames of other stations -/

/-- The one entry of a table stands at its first place. -/
theorem only_first_place {n i : Nat} {e x : Entry} (h : ((List.replicate n none).set 0 (some e))[i]? = some (some x)) : i = 0 := by
  cases i with
  | zero => rfl
  | succ j => simp [List.getElem?_replicate] at h

/-- A table with one entry holds no token twice. -/
theorem tableOf_law (e : Entry) (s : State) (h : s.table = tableOf e) : TableLaw s := by
  refine ⟨by rw [h, tableOf, List.length_set, List.length_replicate], fun i j x y hi hj _ => ?_⟩
  rw [h] at hi hj
  rw [only_first_place hi, only_first_place hj]

theorem witness_LapseHeardRemovesItsSendersClaim :
    let f := toAll 1 5 (c44 ++ [3])
    (TakenFromAny 1 f (knowing peer) ∧ readLapse f.payload = some 0xC44 ∧ (knowing peer).entry 0xC44 = some peer ∧
      peer.status = .peerClaimed ∧ peer.claimant = some f.source) ∧ TableLaw (knowing peer) :=
  ⟨by unfold TakenFromAny Heard; decide +kernel, tableOf_law peer _ rfl⟩

/-- A full table whose last entry expires first. -/
def crowded : List (Option Entry) :=
  List.replicate 255 (some { peer with token := 1 }) ++ [some { peer with token := 2, expiry := 75659 }]

/-- The last entry of that table is the one that is evicted. -/
theorem crowded_evicts : Evicts crowded 255 := by
  refine ⟨by decide +kernel, { peer with token := 2, expiry := 75659 }, by decide +kernel, rfl, fun j x hj _ => ?_⟩
  unfold crowded at hj
  rw [List.getElem?_append] at hj
  split at hj
  · rename_i h
    rw [List.length_replicate] at h
    rw [List.getElem?_replicate, if_pos h] at hj
    cases hj
    exact .inl (by decide)
  · rename_i h
    rw [List.length_replicate] at h hj
    cases hk : j - 255 with
    | zero =>
      rw [hk] at hj
      cases hj
      exact .inr ⟨rfl, by omega⟩
    | succ k => rw [hk] at hj; cases hj

theorem witness_ClaimHeardOfAnUnknownTokenIsEntered :
    let f := toAll 1 5 (c44 ++ [3, 0, 1, 0x27, 0x8C])
    let s : State := { post with table := full }
    let t : State := { post with table := crowded }
    (TakenFromAny 1 f s ∧ readClaim f.payload = some (0xC44, 3, 75660) ∧ s.entry 0xC44 = none ∧
      s.table.findIdx? Option.isNone = some 255 ∧ TakenFromAny 1 f t ∧ t.entry 0xC44 = none ∧ t.masked .table = false) ∧
      Evicts t.table 255 := by
  refine ⟨?_, crowded_evicts⟩
  unfold TakenFromAny Heard
  decide +kernel

/-- The post with an entry, 4 objections and 11 frames waiting. -/
def busy (e : Entry) : State :=
  { knowing e with
    ce := ⟨none, List.replicate 4 ⟨1, 5⟩⟩, rlc := ⟨List.replicate 4 ⟨.object 1 5 .spent, 0⟩ ++ List.replicate 7 ⟨.lapse 2 .noBay, 0⟩,
      [], none, false⟩ }

theorem witness_ClaimHeardForAKnownTokenIsObjectedTo :
    let f := toAll 1 5 (c44 ++ [0, 0, 1, 0x27, 0x8C])
    let g := toAll 1 6 (c44 ++ [0, 0, 1, 0x27, 0x8C])
    TakenFromAny 1 f (busy peer) ∧ TakenFromAny 1 g (busy peer) ∧ readClaim f.payload = some (0xC44, 0, 75660) ∧
      (busy peer).entry 0xC44 = some peer ∧ peer.claimant = some f.source ∧ peer.claimant ≠ some g.source ∧
      (busy (own .ownTaken)).entry 0xC44 = some (own .ownTaken) ∧
      (busy { peer with status := .void }).entry 0xC44 = some { peer with status := .void } ∧
      (busy { peer with status := .revoked }).entry 0xC44 = some { peer with status := .revoked } ∧
      (busy peer).ce.objections.length < 5 ∧ (∀ o ∈ (busy peer).ce.objections, ¬(o.token = 0xC44 ∧ o.claimant = 6)) ∧
      (busy peer).rlc.protocol.length < 12 ∧
      (let d : State := { busy peer with ce := ⟨none, List.replicate 4 ⟨1, 5⟩ ++ [⟨0xC44, 6⟩]⟩ }
       let c : State := { busy peer with ce := ⟨none, List.replicate 4 ⟨1, 5⟩ ++ [⟨0xC44, 5⟩]⟩ }
       TakenFromAny 1 g d ∧ (∃ o ∈ d.ce.objections, o.token = 0xC44 ∧ o.claimant = g.source) ∧ TakenFromAny 1 g c ∧
        5 ≤ c.ce.objections.length ∧ (∀ o ∈ c.ce.objections, ¬(o.token = 0xC44 ∧ o.claimant = g.source)) ∧
        c.masked .line = false) := by
  unfold TakenFromAny Heard
  decide +kernel

/-- The post with its CLAIM waiting between two other frames. -/
def amid : State :=
  { claiming (own .ownPending) with rlc := ⟨[⟨.dump, 0⟩, ⟨ownClaim, 7⟩, ⟨.lapse 1 .noBay, 0⟩], [], none, false⟩ }

/-- A CLAIM that waits between other frames leaves them, and a queue with none stays. -/
theorem witness_Without :
    amid.rlc.protocol = [⟨.dump, 0⟩] ++ ⟨ownClaim, 7⟩ :: [⟨.lapse 1 .noBay, 0⟩] ∧ ClaimFor token.id ownClaim ∧
      (∀ y ∈ [(⟨.dump, 0⟩ : Queued)], ¬ClaimFor token.id y.frame) ∧
      (∀ x ∈ (serving .claiming (own .ownPending)).rlc.protocol, ¬ClaimFor token.id x.frame) :=
  ⟨rfl, ⟨3, 75660, rfl⟩,
    (fun _ hy h => h.elim fun _ h => h.elim fun _ h =>
      nomatch (congrArg Queued.frame (List.mem_singleton.mp hy)).symm.trans h),
    nofun⟩

theorem witness_ClaimHeardReplacesThePendingClaim :
    let f := toAll 1 5 (c44 ++ [2, 0, 1, 0x27, 0x8C])
    ∀ s ∈ [amid, bayLost amid], TakenFromAny 1 f s ∧ readClaim f.payload = some (token.id, 2, 75660) ∧
      s.entry token.id = some (own .ownPending) ∧ s.tap.phase = .claiming ∧ s.tap.token = some token ∧
      s.tap.chosen = some 3 ∧ ((s.bay 3).state = .reserved ∨ (s.bay 3).state = .faulted) := by
  unfold TakenFromAny Heard
  decide +kernel

/-- The post while its claim settles. -/
def settling : State := { serving .settling (own .ownSettling) with ce := ⟨some ⟨500, 0xC44⟩, []⟩ }

theorem witness_ObjectHeard :
    let f := toAll 0 6 (c44 ++ [5, 1])
    let g := toAll 0 6 (c44 ++ [8, 3])
    (TakenFromAny 0 f (knowing peer) ∧ readObject f.payload = some (0xC44, 5) ∧ (knowing peer).entry 0xC44 = some peer ∧
      (∀ o ∈ (knowing peer).ce.objections, ¬(o.token = 0xC44 ∧ o.claimant = 5)) ∧ peer.claimant = some 5 ∧
      (5 : Addr) ≠ (knowing peer).strap ∧ TakenFromAny 0 g (knowing (own .ownHeld)) ∧
      readObject g.payload = some (0xC44, 8) ∧ (knowing (own .ownHeld)).entry 0xC44 = some (own .ownHeld) ∧
      (8 : Addr) = (knowing (own .ownHeld)).strap ∧ (knowing (own .ownHeld)).masked .table = false) ∧
      TakenFromAny 0 g settling ∧ readObject g.payload = some (token.id, settling.strap) ∧
      settling.entry token.id = some (own .ownSettling) ∧ settling.ce.settle = some ⟨500, token.id⟩ ∧
      settling.tap.phase = .settling ∧ settling.tap.token = some token ∧ settling.tap.chosen = some 3 ∧
      (settling.bay 3).state = .reserved ∧ TakenFromAny 0 g (bayLost settling) ∧
      ((bayLost settling).bay 3).state = .faulted := by
  unfold TakenFromAny Heard
  decide +kernel

theorem witness_ObjectSuppressesTheWaitingOne :
    let f := toAll 0 6 (c44 ++ [5, 1])
    let q : State := { waiting [⟨.object 1 5 .spent, 0⟩, ⟨.object 0xC44 5 .void, 7⟩] [] with
      ce := ⟨none, [⟨1, 5⟩, ⟨0xC44, 5⟩]⟩ }
    TakenFromAny 0 f q ∧ readObject f.payload = some (0xC44, 5) ∧ (⟨0xC44, 5⟩ : Objection) ∈ q.ce.objections ∧
      q.rlc.protocol = [⟨.object 1 5 .spent, 0⟩] ++ ⟨.object 0xC44 5 .void, 7⟩ :: [] ∧
      ∀ o, Frame.object 1 5 .spent ≠ .object 0xC44 5 o := by
  unfold TakenFromAny Heard
  exact ⟨by decide +kernel, by decide +kernel, by decide, rfl, fun _ h => absurd (Frame.object.inj h).1 (by decide)⟩

/-- A REVOKE of the token from the gateway to the posts from 8 to 8. -/
def revocation : RowFrame := ⟨2, 0, .span 8 8, c44 ++ [0, 1, 0x27, 0x8D]⟩

/-- It reaches post 8. -/
theorem revocation_taken (s : State)
    (h : s.mode ≠ .starting ∧ s.rlc.attempt = none ∧ (0 : Addr) ≠ s.strap ∧ s.mode ≠ .configFault ∧ (0 : Addr) = s.cfg.gateway ∧
      (8 : Addr) = s.strap) : TakenFromGateway 2 revocation s := by
  refine ⟨⟨h.1, h.2.1, h.2.2.1⟩, h.2.2.2.1, rfl, h.2.2.2.2.1, ?_⟩
  rw [← h.2.2.2.2.2]
  exact ⟨by decide, by decide⟩

theorem witness_RevokeHeard :
    let marked : Entry := { own .ownTaken with revokedLate := true }
    let t : State := { post with table := crowded }
    ((∀ a, revocation.dest ≠ .one a) ∧ readRevoke revocation.payload = some (0xC44, 75661)) ∧
      (TakenFromGateway 2 revocation post ∧ post.entry 0xC44 = none ∧ post.table.findIdx? Option.isNone = some 0) ∧
      (TakenFromGateway 2 revocation t ∧ t.entry 0xC44 = none ∧ Evicts t.table 255) ∧
      (TakenFromGateway 2 revocation (knowing peer) ∧ (knowing peer).entry 0xC44 = some peer) ∧
      (TakenFromGateway 2 revocation amid ∧ amid.entry token.id = some (own .ownPending) ∧ amid.tap.phase = .claiming ∧
        amid.tap.token = some token ∧ amid.tap.chosen = some 3) ∧
      (TakenFromGateway 2 revocation (bayLost settling) ∧ settling.entry token.id = some (own .ownSettling) ∧
        settling.tap.phase = .settling ∧ settling.ce.settle = some ⟨500, 0xC44⟩) ∧
      (TakenFromGateway 2 revocation (knowing (own .ownHeld)) ∧
        (knowing (own .ownHeld)).entry 0xC44 = some (own .ownHeld) ∧ (knowing (own .ownHeld)).masked .table = false) ∧
      TakenFromGateway 2 revocation (knowing marked) ∧ (knowing marked).entry 0xC44 = some marked :=
  ⟨⟨nofun, by decide +kernel⟩, ⟨revocation_taken _ (by decide), by decide +kernel⟩,
    ⟨revocation_taken _ (by decide), by decide +kernel, crowded_evicts⟩, ⟨revocation_taken _ (by decide), by decide +kernel⟩,
    ⟨revocation_taken _ (by decide), by decide +kernel⟩, ⟨revocation_taken _ (by decide), by decide +kernel⟩,
    ⟨revocation_taken _ (by decide), by decide +kernel⟩, revocation_taken _ (by decide), by decide +kernel⟩

/-- A BEACON with a site time below 2^24. -/
def beacon (a b c : Byte) : RowFrame := toAll 2 0 [0, a, b, c]

theorem witness_BeaconHeard :
    (∀ x y z, TakenFromGateway 2 (beacon x y z) post ∧ TakenFromGateway 2 (beacon x y z) { post with ssu := State.reset.ssu }) ∧
      readBeacon (beacon 1 0x19 0x41).payload = some 72001 ∧ readBeacon (beacon 1 0x19 0x40).payload = some 72000 ∧
      readBeacon (beacon 1 0x19 0x3F).payload = some 71999 ∧ post.ssu.state ≠ .unset ∧ post.ssu.stamp = some 72000 ∧
      State.reset.ssu.state = .unset ∧ post.masked .stamp = false :=
  ⟨fun _ _ _ => ⟨fromGateway 2 _ _ (by decide), fromGateway 2 _ _ (by decide)⟩, by decide +kernel⟩

/-- The post in JOINING, following station 5 with these counts. -/
def joining (frames entries : Nat) : State :=
  { post with
    mode := .joining,
    ju := { JoinUnit.reset with
      join := .listening, window := some 10000, tracked := some 5, framesCounted := frames, entriesCounted := entries } }

/-- The post waiting out its stagger. -/
def staggering : State := { post with ju := { JoinUnit.reset with dump := .stagger, stagger := some 160 } }

theorem witness_JoinHeard :
    let f := toAll 2 5 []
    TakenFromAny 2 f (joining 0 0) ∧ (joining 0 0).mode = .joining ∧ TakenFromAny 2 f post ∧ post.mode ≠ .joining ∧
      post.ju.dump = .idle ∧ 0 < post.strap.toNat * post.cfg.dumpStaggerMs ∧ TakenFromAny 2 f staggering ∧
      staggering.ju.dump = .stagger ∧ TakenFromAny 2 f (dumping true) ∧ (dumping true).ju.dump = .dumping ∧
      (let z : State := { busy peer with strap := 0 }
       TakenFromAny 2 f z ∧ z.mode ≠ .joining ∧ z.ju.dump = .idle ∧ z.strap.toNat * z.cfg.dumpStaggerMs = 0 ∧
        z.rlc.protocol.length < 12) := by
  unfold TakenFromAny Heard
  decide +kernel

/-- A DUMP with one entry. -/
def dumpFrame (seq : Byte) : RowFrame := toAll 3 5 ([seq, 1] ++ c44 ++ [1, 3, 5, 2, 0, 1, 0x27, 0x8C])

theorem witness_DumpHeard :
    let e : DumpEntry := ⟨0xC44, .claimed, some 5, some 2, 75660⟩
    TakenFromAny 3 (dumpFrame 63) post ∧ readDump (dumpFrame 63).payload = some (63, [e]) ∧
      readDump (dumpFrame 0).payload = some (0, [e]) ∧ TakenFromAny 3 (dumpFrame 0) staggering ∧
      staggering.mode ≠ .joining ∧ staggering.ju.dump = .stagger ∧ TakenFromAny 3 (dumpFrame 0) (dumping true) ∧
      (dumping true).ju.dump = .dumping ∧ TakenFromAny 3 (dumpFrame 63) (joining 63 252) ∧
      (joining 63 252).mode = .joining ∧ (joining 63 252).ju.tracked = some (dumpFrame 63).source ∧
      63 = (joining 63 252).ju.framesCounted := by
  unfold TakenFromAny Heard
  decide +kernel

/-- The post in JOINING, no dumper followed, its window running. -/
def untracked (used : Bool) : State :=
  { post with mode := .joining, ju := { JoinUnit.reset with join := .listening, window := some 1, restartUsed := used } }

theorem witness_DumpsBeginAndBreakTheTracking :
    TakenFromAny 3 (dumpFrame 0) (untracked false) ∧ (untracked false).mode = .joining ∧
      (untracked false).ju.window ≠ none ∧ (untracked false).ju.restartUsed = false ∧
      (untracked false).ju.tracked = none ∧ TakenFromAny 3 (dumpFrame 0) (untracked true) ∧
      TakenFromAny 3 (dumpFrame 0) (joining 63 252) ∧ TakenFromAny 3 (dumpFrame 62) (joining 63 252) ∧
      readDump (dumpFrame 62).payload = some (62, [⟨0xC44, .claimed, some 5, some 2, 75660⟩]) ∧
      62 ≠ (joining 63 252).ju.framesCounted ∧ TakenFromAny 3 { dumpFrame 0 with source := 6 } (joining 63 252) ∧
      (joining 63 252).ju.tracked ≠ some 6 ∧ TakenFromAny 3 (dumpFrame 63) (untracked false) := by
  unfold TakenFromAny Heard
  decide +kernel

theorem witness_DumpEndHeard :
    let f := toAll 3 5 [64, 1, 0, 1, 1, 0, 1, 0x19, 0x40]
    let unset : State := { joining 64 256 with ssu := State.reset.ssu }
    let late : State := { post with ssu := State.reset.ssu }
    (TakenFromAny 3 f (joining 64 256) ∧ readDumpEnd f.payload = some (64, 256, some 72000) ∧
      (joining 64 256).mode = .joining ∧ (joining 64 256).ju.tracked = some f.source ∧
      64 = (joining 64 256).ju.framesCounted ∧ 256 = (joining 64 256).ju.entriesCounted ∧
      (joining 64 256).ssu.state ≠ .unset) ∧ TakenFromAny 3 f unset ∧ unset.ssu.state = .unset ∧
      (TakenFromAny 3 f late ∧ late.mode ≠ .joining ∧ late.ssu.state = .unset) ∧
      TakenFromAny 3 f (joining 64 255) ∧ ¬(64 = (joining 64 255).ju.framesCounted ∧ 256 = (joining 64 255).ju.entriesCounted) := by
  unfold TakenFromAny Heard
  exact ⟨by decide +kernel, by decide +kernel⟩

/-- The post in JOINING, its JOIN waiting behind another frame. -/
def announcing : State :=
  { joining 0 0 with
    ju := { JoinUnit.reset with join := .announcing, window := some 1 }
    rlc := ⟨[⟨.lapse 1 .noBay, 0⟩, ⟨.join, 7⟩], [], none, false⟩ }

theorem witness_DumpEndsThatEndJoiningOrDoNot :
    let f := toAll 3 6 [64, 1, 0, 1, 1, 0, 1, 0x19, 0x40]
    let g := toAll 3 5 [0, 0, 0, 0, 0, 0, 0, 0, 0]
    (TakenFromAny 3 g announcing ∧ readDumpEnd g.payload = some (0, 0, none) ∧ announcing.mode = .joining ∧
      announcing.ju.tracked = none ∧ announcing.rlc.protocol = [⟨.lapse 1 .noBay, 0⟩] ++ ⟨.join, 7⟩ :: [] ∧
      ∀ y ∈ [(⟨.lapse 1 .noBay, 0⟩ : Queued)], y.frame ≠ .join) ∧
      TakenFromAny 3 f (joining 64 256) ∧ readDumpEnd f.payload = some (64, 256, some 72000) ∧
      (joining 64 256).ju.tracked = some 5 ∧ (5 : Addr) ≠ f.source ∧ TakenFromAny 3 f announcing := by
  unfold TakenFromAny Heard
  decide +kernel

theorem witness_ADumpEndThatIsAnOpening :
    let g := toAll 3 5 [0, 0, 0, 0, 0, 0, 0, 0, 0]
    TakenFromAny 3 g staggering ∧ readDumpEnd g.payload = some (0, 0, none) ∧ staggering.mode ≠ .joining ∧
      staggering.ju.dump = .stagger ∧ TakenFromAny 3 g (dumping true) ∧ (dumping true).mode ≠ .joining ∧
      (dumping true).ju.dump = .dumping ∧ TakenFromAny 3 g post ∧ post.ju.dump = .idle := by
  unfold TakenFromAny Heard
  decide +kernel

/-- The post with frames waiting in its service queue and segment 7 flagged. -/
def serviceHolds (n : Nat) : State :=
  { post with
    rlc := ⟨[], List.replicate n ⟨.logReady 0 0, 0⟩, none, false⟩
    store := { RecordStore.reset with flags := [false, false, false, false, false, false, false, true] } }

theorem witness_GatewayRequestsAreAnsweredInTheServiceQueue :
    (∀ p, TakenFromGateway 4 (toPost 4 p) (serviceHolds 3) ∧ TakenFromGateway 4 (toPost 4 p) (serviceHolds 4)) ∧
      readLogFetch [7, 3, 0xFF, 8] = some (7, 1023, 8) ∧ readLogFetch [0, 0, 0, 1] = some (0, 0, 1) ∧
      (0 : Byte).toNat < (serviceHolds 3).cfg.segments ∧ 0 < (serviceHolds 3).segmentSize ∧
      (serviceHolds 3).segmentSize ≤ 1023 ∧ readLogClear [0] = some 0 ∧ readLogClear [7] = some 7 ∧
      (serviceHolds 3).rlc.service.length < 4 ∧ 4 ≤ (serviceHolds 4).rlc.service.length ∧
      (serviceHolds 3).flagged 0 = false ∧ 7 < (serviceHolds 3).cfg.segments ∧ (serviceHolds 3).flagged 7 = true ∧
      (serviceHolds 3).blocked = false :=
  ⟨fun _ => ⟨fromGatewayTo8 4 _ _ (by decide), fromGatewayTo8 4 _ _ (by decide)⟩, by decide +kernel⟩

theorem witness_DiscardedFrames :
    let f := toAll 5 5 []
    Heard f post ∧ post.mode.working = true ∧ post.rlc.attempt = none ∧ post.masked .line = false ∧
      (toAll 5 8 []).source = post.strap ∧
      (let faulted : State := { post with mode := .configFault }
       let claim : List Byte := c44 ++ [0, 0, 1, 0x27, 0x8C]
       let reads (c : Instr) := (frameRow c).map FrameRow.reads
       reads (.claim (toAll 1 5 c44)) = some false ∧ reads (.claim (toAll 1 5 claim)) = some true ∧
        (frameRow (.claim (toAll 2 5 claim))).map (fun w => (w.rank, w.frame.rank.toNat)) = some (1, 2) ∧
        (frameRow (.claim ⟨1, 5, .one 8, claim⟩)).map FrameRow.form = some false ∧
        Heard ⟨4, 0, .one 9, [1]⟩ post ∧ ¬(9 : Addr) = post.strap ∧
        (frameRow (.restart (toAll 2 5 [0, 0]))).map FrameRow.gateway = some true ∧ Heard (toAll 2 5 [0, 0]) post ∧
        (5 : Addr) ≠ post.cfg.gateway ∧ Heard (toAll 1 5 claim) faulted ∧ faulted.mode = .configFault ∧
        (frameRow (.patrolNow (toAll 2 8 []))).map (fun w => w.frame.source) = some post.strap) := by
  unfold Heard
  decide +kernel

/-! ### Hypotheses met: row actions -/

/-- An ACTION frame for a bay, or for every fitted bay. -/
def actionFor (bay : Option Bay) : RowFrame := toPost 2 (match bay with | some b => [1, BitVec.ofNat 8 b.val] | none => [0, 0])

/-- Every action reaches a post in a working mode. -/
theorem taken (a : RowAction) (bay : Option Bay) (s : State)
    (h : s.mode ≠ .starting ∧ s.rlc.attempt = none ∧ (0 : Addr) ≠ s.strap ∧ s.mode ≠ .configFault ∧ (0 : Addr) = s.cfg.gateway ∧
      (8 : Addr) = s.strap) (mask : s.cfg.actionMask = 0x0FFF) : TakenAction a bay (actionFor bay) s := by
  refine ⟨fromGatewayTo8 2 _ s h, ?_, ?_⟩
  · match bay with
    | none => rfl
    | some b => revert b; decide
  · rw [mask]; revert a; intro a; cases a <;> decide

/-- The post with an entry in its Attention Queue and three frames in its service queue. -/
def noticing : State :=
  { post with
    aq := ⟨[⟨trouble, false⟩], [], true⟩, rlc := ⟨[], List.replicate 3 ⟨.logReady 0 0, 0⟩, none, false⟩ }

theorem witness_ImmediateActions :
    (∀ a m p, m ≠ .starting → m ≠ .configFault → TakenAction a none (actionFor none) (inMode m p)) ∧
      (∀ m p, (inMode m p).mode = m ∧ (inMode m p).tap.phase = p ∧ (inMode m p).aq.queue = []) ∧
      TakenAction .unhush none (actionFor none) noticing ∧ noticing.aq.queue = [⟨trouble, false⟩] ∧
      noticing.cfg.notices = true ∧ (∀ q ∈ noticing.rlc.service, q.frame.kind ≠ .notice) ∧
      noticing.rlc.service.length < 4 :=
  ⟨fun a _ _ h k => taken a none _ ⟨h, rfl, nofun, k, rfl, rfl⟩ rfl, fun _ _ => ⟨rfl, rfl, rfl⟩,
    taken .unhush none _ (by decide) rfl, by decide⟩

theorem witness_LeavingServiceAbortsTheTransaction :
    TakenAction .hold none (actionFor none) amid ∧ TakenAction .maintainEnter none (actionFor none) (bayLost amid) ∧
      TakenAction .hold none (actionFor none) (inMode .service .intake) ∧ (inMode .service .intake).tap.phase = .intake ∧
      TakenAction .maintainEnter none (actionFor none) (inMode .service .checking) ∧ amid.mode = .service ∧
      amid.tap.phase = .claiming ∧ amid.tap.token = some token ∧ amid.tap.chosen = some 3 :=
  ⟨taken _ none _ (by decide) rfl, taken _ none _ (by decide) rfl, taken _ none _ (by decide) rfl, rfl,
    taken _ none _ (by decide) rfl, by decide⟩

/-- The post with this many records in its delay list, none of them FAULT-CLEAR. -/
def delayed (n : Nat) : State := { post with delays := List.replicate n ⟨.patrolNow, some 3, 100⟩ }

/-- The post with no delay of its actions. -/
def undelayed : State := { delayed 1 with image := some { image with actionStaggerMs := 0 } }

theorem witness_ActuatingActionsWaitInTheDelayList :
    (∀ a ∈ actuating, ∀ n, TakenAction a (some 2) (actionFor (some 2)) (delayed n)) ∧
      post.strap.toNat * post.cfg.actionStaggerMs ≠ 0 ∧
      (∀ n, n = 3 ∨ n = 4 →
        ((delayed n).delays.filter (fun r => !(r.action == .faultClear && r.bay == some 2))).length = n) ∧
      (∀ a, TakenAction a (some 2) (actionFor (some 2)) undelayed) ∧
      undelayed.strap.toNat * undelayed.cfg.actionStaggerMs = 0 ∧
      (let s : State := { post with image := some { image with actionMask := 0x0FBF } }
       TakenFromGateway 2 (actionFor none) s ∧ readAction (actionFor none).payload = some none ∧
        s.cfg.actionMask.getLsbD RowAction.faultClear.bit = false) := by
  refine ⟨fun a _ _ => taken a (some 2) _ ⟨nofun, rfl, nofun, nofun, rfl, rfl⟩ rfl, by decide, ?_,
    fun a => taken a (some 2) _ ⟨nofun, rfl, nofun, nofun, rfl, rfl⟩ rfl, by decide,
    fromGatewayTo8 2 _ _ ⟨by decide, rfl, by decide, by decide, rfl, rfl⟩, rfl, by decide⟩
  rintro n (h | h) <;> subst h <;> decide

/-- The post in MAINTENANCE with an action whose delay is ending. -/
def due (a : RowAction) (bay : Option Bay) (s : State) : State := { s with mode := .maintenance, delays := [⟨a, bay, 800⟩] }

theorem witness_DelayExpiryAndRestart :
    let s := due .restart none post
    let t := due .restart none (sending .sending 0 (.lapse 1 .noBay) .fixed post)
    let u : State := { s with store := { post.store with writer := 126 } }
    s.delays = [⟨.restart, none, 800⟩] ∧ s.mode = .maintenance ∧ s.rlc.attempt = none ∧ t.mode = .maintenance ∧
      t.delays = [⟨.restart, none, 800⟩] ∧ t.rlc.attempt ≠ none ∧ u.blocked = false ∧
      u.store.writer % u.segmentSize ≠ u.segmentSize - 1 ∧ (delayed 1).mode ≠ .maintenance ∧
      ({ post with delays := [⟨.faultClear, none, 1⟩] } : State).mode ≠ .maintenance := by decide +kernel

/-- The post in MAINTENANCE with a restart due and a frame under way. -/
def restarting (phase : AttemptPhase) (vetoes : Nat) (f : Frame) : State :=
  { sending phase vetoes f .fixed post with mode := .maintenance, restartDue := true }

theorem witness_ARestartThatIsDue :
    (∀ p v f, (restarting p v f).restartDue = true) ∧
      EndsAttempt .arbitrationLost (restarting .arbitrating 0 .join) ∧
      (∀ readback, EndsAttempt (.frameVetoed (.own readback)) (restarting .sending 7 ownClaim)) ∧
      EndsAttempt .lapseEcho (restarting .sending 0 (.lapse 1 .noBay)) ∧
      EndsAttempt .dumpEndEcho (restarting .sending 0 .dumpEnd) :=
  ⟨fun _ _ _ => rfl, .inl ⟨rfl, _, rfl, rfl⟩, fun b => .inr ⟨_, _, _, ⟨rfl, rfl, rfl⟩, .inl ⟨b, rfl⟩⟩,
    .inr ⟨_, _, _, ⟨rfl, rfl, rfl⟩, .inr rfl⟩, .inr ⟨_, _, _, ⟨rfl, rfl, rfl⟩, .inr rfl⟩⟩

theorem witness_ActionsAppliedToABay :
    (∀ a state i, (due a (some 3) (bay3 state i)).delays = [⟨a, some 3, 800⟩] ∧
      (due a (some 3) (bay3 state i)).mode = .maintenance ∧ (3 : Bay).val < (due a (some 3) (bay3 state i)).cfg.baysFitted ∧
      (due a (some 3) (bay3 state i)).wantsDrive 3 = false ∧ ((due a (some 3) (bay3 state i)).bay 3).state = state ∧
      (due a (some 3) (bay3 state i)).input 3 = i ∧ (due a (some 3) (bay3 state i)).pendingOf 3 = []) ∧
      locked.presence = true ∧ open'.presence = false ∧ open'.seat = false ∧
      ({ open' with seat := true } : BayInputs).presence = false ∧
      (∀ m state, let s : State := { bay3 state locked with mode := m, delays := [⟨.relatchOpen, some 3, 0⟩] }
        s.mode = m ∧ s.delays = [⟨.relatchOpen, some 3, 0⟩] ∧ s.wantsDrive 3 = false ∧ (s.bay 3).state = state) ∧
      (∀ m ∈ [PostMode.joining, .service, .hold, .closing, .maintenance], m.working = true) :=
  ⟨fun _ _ _ => ⟨rfl, rfl, by show 3 < 4; decide, rfl, rfl, rfl, rfl⟩, rfl, rfl, rfl, rfl, fun _ _ => ⟨rfl, rfl, rfl, rfl⟩,
    by decide⟩

/-! ### Hypotheses met: timers -/

/-- The post with its stamp at a value. -/
def at' (a : Stamp) : State := { post with ssu := ⟨some a, .set, some 600000, some 1000⟩ }

theorem witness_SecondsAdvanceTheStampAndItNeverDecreases :
    (∀ a, StampLaw (at' a) ∧ (at' a).ssu.state ≠ .unset ∧ (at' a).ssu.stamp = some a) ∧
      (4294967294 : Stamp).toNat < 4294967295 ∧ (4294967295 : Stamp).toNat = 4294967295 ∧
      exec .secondIntervalExpiry (at' 72000) = .next (after .secondIntervalExpiry (at' 72000)) ∧
      ¬isReset .secondIntervalExpiry :=
  ⟨fun _ => ⟨⟨rfl, rfl, rfl⟩, nofun, rfl⟩, by decide, by decide, rfl, id⟩

/-- The settling post with its bay lost, and bay 0 left, or no candidate. -/
def lost (candidates : List Bay) : State :=
  { settling with bays := post.bays.set 3 BayRecord.reset, tap := { settling.tap with candidates := candidates } }

theorem witness_SettleExpiryHandsOverOrEndsTheClaim :
    (settling.ce.settle = some ⟨500, token.id⟩ ∧ settling.entry token.id = some (own .ownSettling) ∧
      settling.tap.phase = .settling ∧ settling.tap.token = some token ∧ settling.tap.chosen = some 3 ∧
      (settling.bay 3).state = .reserved ∧ settling.wantsDrive 3 = false) ∧
      (∀ l, (lost l).ce.settle = some ⟨500, token.id⟩ ∧ (lost l).tap.phase = .settling ∧
        (lost l).tap.token = some token ∧ (lost l).tap.chosen = some 3 ∧ (lost l).rlc.protocol = []) ∧
      ((lost [3, 0]).entry token.id = some (own .ownSettling) ∧ ((lost [3, 0]).bay 3).state ≠ .reserved) ∧
      NextCandidate (lost [3, 0]) token 1 0 ∧ (∀ j d, ¬NextCandidate (lost [3]) token j d) ∧ TableLaw (lost [3]) :=
  ⟨by decide +kernel, fun _ => ⟨rfl, rfl, rfl, rfl, rfl⟩, by decide +kernel,
    ⟨by decide, rfl, ⟨by decide, rfl, rfl, ⟨1, rfl, .inr rfl⟩, .inl rfl, rfl⟩,
      fun k _ h h' => absurd h' (Nat.not_lt.mpr h)⟩,
    fun j d h => by
      have h1 := h.1
      have h2 := h.2.1
      match j with
      | 0 => exact absurd h1 (Nat.lt_irrefl 0)
      | k + 1 => (cases h2),
    tableOf_law _ _ rfl⟩

theorem witness_BeaconLossAndJoinTimers :
    let s : State := { joining 0 0 with ju := { JoinUnit.reset with join := .gapWait } }
    let a : Attempt := ⟨.sending, .protocol, 1, .fixed, false⟩
    let j : State := { announcing with rlc := { announcing.rlc with attempt := some a } }
    let o : State := { announcing with rlc := { announcing.rlc with attempt := some { a with place := 0 } } }
    (post.ssu.beaconLoss ≠ none ∧ post.mode.working = true ∧ post.masked .stamp = false ∧ s.mode = .joining ∧
      s.ju.join = .gapWait ∧ s.rlc.protocol.length < 12 ∧ announcing.mode = .joining ∧ announcing.ju.window ≠ none ∧
      announcing.rlc.attempt = none ∧ post.masked .post = false ∧ staggering.ju.dump = .stagger ∧
      (busy peer).rlc.protocol.length < 12) ∧
      ((j.side .protocol)[1]? = some ⟨.join, 7⟩ ∧ (∀ y ∈ j.rlc.protocol.take 1, y.frame ≠ .join)) ∧
      (o.side .protocol)[0]? = some ⟨.lapse 1 .noBay, 0⟩ := by decide +kernel

theorem witness_TakeAndPatrolTimers :
    let s : State := { post with bays := post.bays.set 3 { docked with state := .opened, take := some 30000 } }
    let t : State := { post with patrol := some 3600000 }
    (s.bay 3).state = .opened ∧ (s.bay 3).take ≠ none ∧ s.wantsDrive 3 = false ∧ t.patrol ≠ none ∧
      (3 : Bay).val < t.cfg.baysFitted ∧ (t.bay 3).state = .docked ∧ t.pendingOf 3 = [] ∧ t.wantsDrive 3 = false := by
  decide +kernel

/-! ### Hypotheses met: the tap link -/

/-- The post with a PRESENT being collected in a phase, and this many answers to second presentations waiting. -/
def collecting (c : Collecting) (phase : TapPhase) (n : Nat) : State :=
  { post with
    tap := { TapRecord.reset with phase := phase, collecting := some c, intake := some 250, token := some token }
    link := ⟨List.replicate n (.verdict .busy .second), some (.bayLight 0 .shut)⟩ }

theorem witness_StartMarkersAndUnreadablePresents :
    (State.reset.mode = .starting ∧ (inMode .configFault .idle).mode ≠ .starting ∧
      (inMode .service .idle).tap.phase = .idle ∧ (inMode .service .intake).tap.phase = .intake ∧
      (inMode .hold .verdict).tap.phase ≠ .idle ∧ (inMode .hold .verdict).tap.phase ≠ .intake) ∧
      ((30 : Byte) ≠ 31 ∧ (32 : Byte) ≠ 31 ∧ readPresent [2] = none ∧ readPresent (List.replicate 31 0) = none) ∧
      (∀ c phase n, (collecting c phase n).tap.intake ≠ none ∧ (collecting c phase n).tap.collecting = some c) ∧
      ((collecting .second .verdict 2).link.list.filter TapMessage.answersSecond).length < 3 ∧
      3 ≤ ((collecting .second .verdict 3).link.list.filter TapMessage.answersSecond).length :=
  ⟨by decide, by decide +kernel, fun _ _ _ => ⟨nofun, rfl⟩, by decide, by decide⟩

/-- A PRESENT that carries `token` after its length byte. -/
def present : List Byte :=
  [1] ++ c44 ++ [1, 0x2D, 255, 255, 1, 0, 1, 0x15, 0x58, 0, 1, 0x27, 0x50] ++ List.replicate 8 0 ++ [0x7D]

theorem witness_ReadablePresents :
    let s := collecting .transaction .intake 0
    let closed : State := { s with tap := { s.tap with closed := true } }
    readPresent present = some token ∧ s.tap.collecting = some .transaction ∧ closed.tap.collecting = some .transaction ∧
      closed.tap.closed = true ∧ s.tap.closed = false ∧ s.mode ≠ .configFault ∧ intakeAnswer s token = none ∧
      intakeAnswer { s with ssu := State.reset.ssu } token = some .noTime ∧
      intakeAnswer (at' 70940) token = none ∧ intakeAnswer (at' 70939) token = some .tooEarly ∧
      intakeAnswer (at' 75660) token = none ∧ intakeAnswer (at' 75661) token = some .expired := by decide +kernel

theorem witness_ReadableSecondPresents :
    let s := collecting .second .settling 2
    let t : State := { collecting .second .settling 3 with tap := { (collecting .second .settling 3).tap with token := none } }
    let k : State := { collecting .second .idle 0 with tap := { (collecting .second .idle 0).tap with kept := some token.id } }
    readPresent present = some token ∧ s.tap.collecting = some .second ∧ s.tap.phase ≠ .idle ∧ s.tap.token = some token ∧
      (s.link.list.filter TapMessage.answersSecond).length < 3 ∧ t.tap.collecting = some .second ∧ t.tap.phase ≠ .idle ∧
      t.tap.token = none ∧ 3 ≤ (t.link.list.filter TapMessage.answersSecond).length ∧ k.tap.collecting = some .second ∧
      k.tap.phase = .idle ∧ k.tap.kept = some token.id ∧ (collecting .second .idle 0).tap.kept = none := by decide +kernel

/-- A value differs from the one with its lowest bit turned. -/
theorem turned (x : BitVec 64) : x ≠ x ^^^ 1 := by
  intro h
  have := congrArg (fun y => y.getLsbD 0) h
  simp at this

/-- A token in the Token Check Unit of a post. -/
def checking (tok : Token) (rotation : Bay) (s : State) : State :=
  { s with
    tcu := ⟨true, some tok⟩, tap := { TapRecord.reset with phase := .checking, token := some tok, rotation := rotation } }

theorem witness_TokenChecksThatRefuse :
    (∀ tok r s, (checking tok r s).tcu = ⟨true, some tok⟩ ∧ (checking tok r s).tap.phase = .checking) ∧
      Config.keyedCode (checking forged 3 post).cfg.siteKey forged.checkedBits ≠ forged.check ∧
      Config.keyedCode (checking genuine 3 post).cfg.siteKey genuine.checkedBits = genuine.check ∧
      (checking genuine 3 (knowing { peer with status := .revoked })).entry genuine.id = some { peer with status := .revoked } ∧
      (checking genuine 3 (knowing peer)).entry genuine.id = some peer ∧
      (let s : State := { post with bays := ⟨BayRecord.reset, BayRecord.reset, BayRecord.reset, BayRecord.reset⟩ }
       (checking genuine 3 s).entry genuine.id = none ∧ ∀ b, ¬CanServe (checking genuine 3 s) genuine b) := by
  refine ⟨fun _ _ _ => ⟨rfl, rfl⟩, turned _, rfl, by decide +kernel, by decide +kernel, by decide +kernel, fun b h => ?_⟩
  have : b.val < 4 := b.isLt
  have h' := h.2.1
  revert h'
  match b with
  | 0 | 1 | 2 | 3 => nofun

theorem witness_TokenChecksThatStartAClaim :
    let s := checking genuine 3 post
    let t := checking genuine 0 { bay3 .docked locked with
      bays := ⟨docked, { docked with state := .empty }, { docked with state := .reserved }, { docked with state := .opened }⟩, table := full }
    s.entry genuine.id = none ∧ CanServe s genuine 0 ∧ (0 : Bay) = s.tap.rotation + 1 + 0 ∧
      s.table.findIdx? Option.isNone = some 0 ∧ t.entry genuine.id = none ∧ CanServe t genuine 0 ∧
      (0 : Bay) = t.tap.rotation + 1 + 3 ∧ (∀ k : Bay, k.val < 3 → (t.bay (t.tap.rotation + 1 + k)).state ≠ .docked) ∧
      t.table.findIdx? Option.isNone = some 255 ∧
      (75660 : Stamp).toNat = min 4294967295 (genuine.notAfter.toNat + s.cfg.skewS) ∧
      (∀ n, n = 11 ∨ n = 12 → (List.replicate n (⟨.object 1 5 .spent, 0⟩ : Queued)).length = n ∧
        ∀ q ∈ List.replicate n (⟨.object 1 5 .spent, 0⟩ : Queued), q.frame.kind ≠ .lapse) ∧
      (∃ q ∈ (busy peer).rlc.protocol, q.frame.kind = .lapse) ∧
      (let u : State := { s with table := crowded }
       u.entry genuine.id = none ∧ CanServe u genuine 0 ∧ u.mode.working = true ∧ u.masked .table = false ∧
        Evicts u.table 255) := by
  refine ⟨by decide +kernel, ⟨by decide, rfl, rfl, ⟨1, rfl, .inr rfl⟩, .inl rfl, rfl⟩, rfl, by decide +kernel,
    by decide +kernel, ⟨by decide, rfl, rfl, ⟨1, rfl, .inr rfl⟩, .inl rfl, rfl⟩, by decide, by decide +kernel,
    by decide +kernel, by decide, ?_, by decide +kernel, by decide +kernel,
    ⟨by decide, rfl, rfl, ⟨1, rfl, .inr rfl⟩, .inl rfl, rfl⟩, rfl, by decide, crowded_evicts⟩
  rintro n (h | h) <;> subst h <;> decide +kernel

/-- The post with a message under transmission and another waiting. -/
def telling (m : TapMessage) : State :=
  { collecting .second .verdict 1 with link := ⟨[.bayLight 3 .shut], some m⟩ }

theorem witness_MessagesSent :
    (∀ m, (telling m).link.sending = some m) ∧ (telling (.verdict .spent .transaction)).tap.collecting = some .second ∧
      (let s : State := { telling (.verdict .spent .transaction) with mode := .closing }
       s.mode = .closing ∧ (∀ c : Bay, (s.bay c).state.busy = false) ∧
        (({ s with bays := s.bays.set 3 { docked with state := .docking } } : State).bay 3).state.busy = true) :=
  ⟨fun _ => rfl, rfl, by decide⟩

/-! ### Hypotheses met: bays and runs -/

/-- No source is masked by a mask of 0. -/
theorem unmasked (n : Nat) : (0 : BitVec 16).getLsbD n = false := BitVec.getLsbD_zero

/-- The post in which bay 0 holds the claim, its bay in a state. -/
def holding (state : BayState) (i : BayInputs) : State :=
  { running state (runOf (.role .relatch) [⟨.inward 1, false, .untilSees .home true 64⟩] 1 3) with
    bays := post.bays.set 0 { docked with state := state, claim := some 0xC44 }, table := tableOf (own .ownHeld)
    inputs := post.inputs.set 0 i, store := { post.store with writer := 126 } }

/-- The same with no run, and these requests waiting. -/
def parked (state : BayState) (i : BayInputs) (waiting : List Request) : State :=
  { holding state i with run := none, drive := ⟨waiting, none⟩ }

theorem witness_Withdrawals :
    let asks := [(⟨0, .role .relatch⟩ : Request)]
    (∀ s ∈ [parked .opened { locked with seat := false } [], parked .opened locked [],
        parked .relatching { locked with seat := false } asks, parked .relatching locked asks, holding .relatching locked],
      s.mode.working = true ∧ (s.input 0).presence = true ∧ (s.bay 0).tagRead = none ∧ (s.bay 0).claim = some 0xC44 ∧
        s.entry 0xC44 = some (own .ownHeld) ∧ s.blocked = false ∧ (s.pendingOf 0).length < 2 ∧ s.tap.phase = .idle ∧
        (∀ c : Bay, c ≠ 0 → (s.bay c).state.busy = false) ∧ (∀ r ∈ s.run, r.dwelling = false)) ∧
      (parked .opened locked []).wantsDrive 0 = false ∧ (parked .relatching locked asks).requestWaits 0 = true ∧
      (parked .relatching locked asks).runsAt 0 = false ∧
      (holding .relatching locked).run.map (fun r => r.bay) = some 0 := by decide +kernel

theorem witness_LossOfALockedBicycle :
    (∀ state i, (bay3 state i).runsAt 3 = false ∧ ((bay3 state i).bay 3).tagRead = none ∧
      ((bay3 state i).bay 3).state = state ∧ (bay3 state i).input 3 = i ∧ (bay3 state i).mode.working = true ∧
      (bay3 state i).masked (.bay 3) = false) ∧
      (∀ n state failed, ((reading n state failed).bay 3).tagRead = some n ∧ (reading n state failed).runsAt 3 = false ∧
        ((reading n state failed).bay 3).state = state ∧ (reading n state failed).input 3 = locked) ∧
      ({ reading 1 .serviceOpen none with drive := ⟨[⟨3, .role .serviceClose⟩], none⟩ } : State).requestWaits 3 = true ∧
      locked.presence = true ∧ locked.seat = true ∧ locked.home = true ∧ locked.driverFault = false :=
  ⟨fun _ _ => ⟨rfl, rfl, rfl, rfl, rfl, unmasked _⟩, fun _ _ _ => ⟨rfl, rfl, rfl, rfl⟩, rfl, rfl, rfl, rfl, rfl⟩

/-- Bay 3 with returns waiting in its pending list. -/
def returns (n : Nat) : State :=
  { bay3 .empty open' with store := { post.store with waiting := List.replicate n (.returned 3 none none false) } }

theorem witness_SeatChanges :
    let w : State := { bay3 .docking locked with drive := ⟨[⟨3, .role .relatch⟩], none⟩ }
    let r := running .docking (runOf (.role .relatch) [⟨.inward 1, false, .untilSees .home true 64⟩] 1 3)
    (∀ n, ((returns n).input 3).seat = false ∧ ((returns n).bay 3).state = .empty ∧ (returns n).wantsDrive 3 = false) ∧
      ((returns 1).pendingOf 3).length < 2 ∧ 2 ≤ ((returns 2).pendingOf 3).length ∧ (w.input 3).seat = true ∧
      (w.bay 3).state = .docking ∧ (w.bay 3).tagRead = none ∧ w.runsAt 3 = false ∧ w.requestWaits 3 = true ∧
      (r.input 0).seat = true ∧ (r.bay 0).state = .docking ∧ (r.bay 0).tagRead = none ∧
      r.run.map (fun x => (x.bay, x.dwelling)) = some (0, false) :=
  ⟨fun _ => ⟨rfl, rfl, rfl⟩, by decide +kernel⟩

theorem witness_TagAnswersAreJudgedOnTheirBytes :
    (∀ n state failed, ((reading n state failed).bay 3).tagRead = some n ∧
      ((reading n state failed).bay 3).state = state) ∧
      readTag [0, 0, 0x9C, 0xB5, 1, 0x72] = some (40117, 1) ∧ readTag [0, 0, 0x9C, 0xB5, 1] = none ∧
      ([0, 0, 0x9C, 0xB5, 1] : List Byte).length < 6 :=
  ⟨fun _ _ _ => ⟨rfl, rfl⟩, by decide +kernel, by decide +kernel, by decide⟩

theorem witness_TagReadsEnd :
    (∀ n state failed, ((reading n state failed).bay 3).tagRead = some n ∧
      ((reading n state failed).bay 3).state = state ∧ ((reading n state failed).bay 3).failedDock = failed ∧
      (reading n state failed).mode.working = true ∧ (reading n state failed).masked (.bay 3) = false ∧
      (reading n state failed).wantsDrive 3 = false) ∧
      (∀ n, ({ reading n .serviceOpen none with drive := ⟨[⟨3, .role .serviceClose⟩], none⟩ } : State).wantsDrive 3 = true) ∧
      readTag [] = none ∧ readTag [0, 0, 0x9C, 0xB5, 1, 0x72] = some (40117, 1) ∧ (reading 3 .docking none).blocked = false :=
  ⟨fun _ _ _ => ⟨rfl, rfl, rfl, rfl, unmasked _, rfl⟩, fun _ => rfl, by decide +kernel⟩

/-- Steps of each kind. -/
def out3 : Step := ⟨.out 3, false, .plain⟩
def in3 : Step := ⟨.inward 3, false, .plain⟩
def outToClear : Step := ⟨.out 1, true, .plain⟩
def sense4 : Step := ⟨.sense, false, .untilSees .home true 4⟩
def dwell40 : Step := ⟨.dwell 40, false, .plain⟩
def seek60 : Step := ⟨.inward 1, false, .untilSees .home true 60⟩

theorem witness_BoundariesOfARun :
    let r := runOf (.role .release) [out3, in3, sense4, dwell40, out3, outToClear]
    (∀ i m, (running .releasing (r i m)).run = some (r i m) ∧
      ((running .releasing (r i m)).input (r i m).bay).driverFault = false ∧ (r i m).stop = false ∧
      (r i m).steps[0]? = some out3 ∧ (r i m).steps[1]? = some in3 ∧ (r i m).steps[2]? = some sense4 ∧
      (r i m).steps[3]? = some dwell40 ∧ (r i m).steps[4]? = some out3 ∧ (r i m).steps[5]? = some outToClear ∧
      (r i m).clearPoint = some 36) ∧
      (r 3 2).made + 1 < 4 ∧ (r 1 1).made + 1 < 3 ∧ (r 6 34).made + 1 < (r 6 34).clearPoint.getD 1 ∧
      ((running .releasing (r 3 2)).input 0).level .clear ≠ true ∧ ((running .releasing (r 3 2)).input 0).level .home = true ∧
      out3.action ≠ .sense :=
  ⟨fun _ _ => ⟨rfl, rfl, rfl, rfl, rfl, rfl, rfl, rfl, rfl, rfl⟩, by decide, by decide, by decide, by decide, by decide,
    by decide⟩

/-- Runs at boundaries of the other kinds of step, the inputs of the bay those of a locked bicycle: home asserted, clear
not. -/
theorem witness_BoundariesOfOtherSteps :
    let i := (running .docked (runOf (.role .patrol) [seek60] 0 0)).input 0
    let edge : Step := ⟨.out 1, false, .edge .clear 40⟩
    let stop : Step := ⟨.inward 3, false, .stopWhen .home true⟩
    let look : Step := ⟨.sense, false, .stopWhen .home true⟩
    let edging := runOf (.role .release) [edge, dwell40] 1 38
    let patrol (steps : List Step) (index made : Nat) := running .docked (runOf (.role .patrol) steps index made)
    (i.level .home = true ∧ i.level .clear = false ∧ i.driverFault = false ∧ edging.made + 1 < 40 ∧
      edging.edge = .seekLow ∧ edging.steps[1]? = some dwell40 ∧ seek60.mode = .untilSees .home true 60 ∧
      ([seek60, dwell40] : List Step)[1]? = some dwell40 ∧ stop.mode = .stopWhen .home true ∧ look.action = .sense ∧
      ({ open' with clear := true } : BayInputs).level .clear = true) ∧
      (∀ steps index made, ((patrol steps index made).bay 0).state = .docked ∧
        ((patrol steps index made).bay 0).followOn = none ∧
        (patrol steps index made).run = some (runOf (.role .patrol) steps index made)) ∧
      DriveLaw (patrol [stop] 1 2) ∧ DriveLaw (patrol [look] 0 0) ∧ DriveLaw (patrol [in3, dwell40] 2 0) := by
  refine ⟨by decide, fun _ _ _ => ⟨rfl, rfl, rfl⟩, ?_⟩
  unfold DriveLaw
  decide +kernel

/-- The post with bay 0 in a state, a run of it in progress, its inputs at levels and a request of bay 3 waiting. -/
def moving (state : BayState) (r : Run) (i : BayInputs) : State :=
  { running state r with inputs := post.inputs.set 0 i, drive := ⟨[⟨3, .role .patrol⟩], some 0⟩ }

/-- A run in its last step, a DWELL. -/
def last (run : RunFor) : Run := runOf run [out3, dwell40] 2 0

/-- A run that seeks a level and makes its limit, and one that was asked to stop between two steps. -/
def seeks (run : RunFor) : Run := runOf run [seek60, out3] 1 59
def stops (run : RunFor) : Run := { runOf run [dwell40, out3] 1 0 with stop := true }

/-- The state and run meet what the statements about a run's end ask of every run. -/
theorem moving_meets (state : BayState) (r : Run) (i : BayInputs) (h : r.bay = 0) :
    (moving state r i).run = some r ∧ ((moving state r i).bay 0).state = state ∧ (moving state r i).input 0 = i ∧
      ((moving state r i).bay 0).followOn = none ∧ ((moving state r i).bay 0).tagRead = none ∧
      (moving state r i).mode.working = true ∧ (moving state r i).pendingOf 0 = [] ∧ DriveLaw (moving state r i) := by
  refine ⟨rfl, rfl, rfl, rfl, rfl, rfl, rfl, List.nodup_cons.mpr ⟨List.not_mem_nil, List.nodup_nil⟩, congrArg some h.symm, fun b hb => ?_⟩
  have : r.bay = b := eq_of_beq hb
  rw [← this, h]
  rfl

/-- A DWELL that is the last step, or the first of two. -/
theorem last_step (run : RunFor) : AtStep .dwellEnd (last run) dwell40 :=
  ⟨Nat.zero_lt_succ 1, rfl, .inr (.inl ⟨rfl, 40, rfl⟩)⟩

theorem ends_success (s : State) (run : RunFor) (h : (s.input 0).driverFault = false) :
    Ends s (last run) .dwellEnd .success none :=
  .finished _ _ (last_step run) h (Nat.zero_le 1) (.inl (Nat.le_refl 2)) trivial

theorem ends_limit (s : State) (run : RunFor) (h : (s.input 0).driverFault = false) (hl : (s.input 0).home = false) :
    Ends s (seeks run) .boltStepEnd .limit none :=
  .limit _ seek60 ⟨Nat.zero_lt_succ 0, rfl, .inl ⟨rfl, 1, .inr rfl⟩⟩ h
    ⟨nofun, fun k : (s.input 0).home = true => Bool.noConfusion (hl.symm.trans k), Nat.le_refl 60⟩

theorem ends_driver (s : State) (run : RunFor) (h : (s.input 0).driverFault = true) :
    Ends s (last run) .dwellEnd .driver none := .driver _ _ (last_step run) h

theorem ends_stopped (s : State) (run : RunFor) (h : (s.input 0).driverFault = false) :
    Ends s (stops run) .dwellEnd .stopped none :=
  .stoppedBetween _ dwell40 ⟨Nat.zero_lt_succ 0, rfl, .inr (.inl ⟨rfl, 40, rfl⟩)⟩ h rfl (Nat.zero_le 1) (Nat.lt_succ_self 1)

/-- The other ways a run ends: at its pulse, within a step, and with an edge measured. -/
theorem witness_Ends :
    let at0 (i : BayInputs) (stop : Bool) : Run × State :=
      let r : Run := { runOf (.role .home) [seek60] 0 0 with stop := stop }
      (r, moving .calibrating r i)
    let edge : Run := { runOf (.role .release) [⟨.out 1, false, .edge .home 40⟩] 1 36 with outs := 36, edge := .seekHigh }
    let hold := runOf (.role .relatch) [⟨.inward 3, false, .stopWhen .home true⟩, out3] 1 2
    let short : Run := { runOf (.role .patrol) [out3] 1 0 with stop := true }
    let faulty : BayInputs := { locked with driverFault := true }
    Ends (at0 faulty false).2 (at0 faulty false).1 .faultResetPulseEnd .driver none ∧
      Ends (at0 locked true).2 (at0 locked true).1 .faultResetPulseEnd .stopped none ∧
      Ends (at0 locked false).2 (at0 locked false).1 .faultResetPulseEnd .success none ∧
      Ends (moving .releasing edge locked) edge .boltStepEnd .success (some 37) ∧
      Ends (moving .docking hold locked) hold .boltStepEnd .success none ∧
      Ends (moving .docked short locked) short .boltStepEnd .stopped none :=
  ⟨.pulseDriver rfl rfl, .pulseStopped rfl rfl rfl,
    .pulseFinished rfl rfl rfl (.inl ⟨.home, true, 60, rfl, rfl, trivial⟩),
    .finished _ ⟨.out 1, false, .edge .home 40⟩ ⟨by decide, rfl, .inl ⟨rfl, 1, .inl rfl⟩⟩ rfl ⟨rfl, rfl⟩ (.inl (by decide)) trivial,
    .holds _ ⟨.inward 3, false, .stopWhen .home true⟩ ⟨by decide, rfl, .inl ⟨rfl, 3, .inr rfl⟩⟩ rfl
      ⟨.home, true, rfl, by decide, rfl⟩,
    .stoppedInStep _ out3 ⟨by decide, rfl, .inl ⟨rfl, 3, .inl rfl⟩⟩ rfl rfl (show 1 < 3 by decide)⟩

theorem witness_RunsThatSucceed :
    (∀ state run i, i.driverFault = false →
      Ends (moving state (last run) i) (last run) .dwellEnd .success none ∧ (last run).run = run ∧
        (moving state (last run) i).run = some (last run) ∧ ((moving state (last run) i).bay 0).state = state ∧
        ((moving state (last run) i).bay 0).followOn = none ∧ DriveLaw (moving state (last run) i)) ∧
      locked.presence = true ∧ locked.seat = true ∧ open'.presence = false ∧ open'.seat = false ∧
      (returns 2).pendingOf 3 = [.returned 3 none none false, .returned 3 none none false] :=
  ⟨fun state run i h => ⟨ends_success _ run h, rfl, rfl, rfl, rfl, (moving_meets state _ i rfl).2.2.2.2.2.2.2⟩,
    by decide +kernel⟩

theorem witness_RunsThatFail :
    (∀ state run i, i.driverFault = false → i.home = false →
      Ends (moving state (seeks run) i) (seeks run) .boltStepEnd .limit none ∧ DriveLaw (moving state (seeks run) i)) ∧
      (∀ state run i, i.driverFault = true →
        Ends (moving state (last run) i) (last run) .dwellEnd .driver none ∧ DriveLaw (moving state (last run) i)) ∧
      (∀ state run i, (moving state (seeks run) i).run = some (seeks run) ∧
        ((moving state (seeks run) i).bay 0).state = state ∧ ((moving state (seeks run) i).bay 0).followOn = none ∧
        (moving state (seeks run) i).masked (.bay 0) = false) ∧
      ({ locked with home := false } : BayInputs).presence = true ∧ open'.presence = false :=
  ⟨fun state run i h h' => ⟨ends_limit _ run h h', (moving_meets state _ i rfl).2.2.2.2.2.2.2⟩,
    fun state run i h => ⟨ends_driver _ run h, (moving_meets state _ i rfl).2.2.2.2.2.2.2⟩,
    fun _ _ _ => ⟨rfl, rfl, rfl, unmasked _⟩, rfl, rfl⟩

/-- The post whose transaction has its claim held at bay 0, a run of which is in progress. -/
def releasing (state : BayState) (r : Run) (i : BayInputs) (candidates : List Bay) : State :=
  { moving state r i with
    bays := ⟨{ docked with state := state, claim := some 0xC44, cause := some .notTaken }, docked, docked, docked⟩
    table := tableOf { own .ownHeld with bay := some 0 }
    tap := { TapRecord.reset with
      phase := .releaseStart, token := some token, chosen := some 0, candidates := candidates } }

theorem releasing_meets (state : BayState) (r : Run) (i : BayInputs) (l : List Bay) (h : r.bay = 0) :
    (releasing state r i l).run = some r ∧ DriveLaw (releasing state r i l) ∧
      ((releasing state r i l).bay 0).state = state ∧ ((releasing state r i l).bay 0).followOn = none ∧
      ((releasing state r i l).bay 0).claim = some token.id ∧ ((releasing state r i l).bay 0).cause = some .notTaken ∧
      (releasing state r i l).tap.phase = .releaseStart ∧ (releasing state r i l).tap.chosen = some 0 ∧
      (releasing state r i l).tap.token = some token ∧ TableLaw (releasing state r i l) :=
  ⟨rfl, (moving_meets state r i h).2.2.2.2.2.2.2, rfl, rfl, rfl, rfl, rfl, rfl, rfl, tableOf_law _ _ rfl⟩

theorem witness_ReleasesEnd :
    (∀ i l, i.driverFault = false → Ends (releasing .releasing (last (.role .release)) i l) (last (.role .release)) .dwellEnd .success none) ∧
      (∀ l, Ends (releasing .releasing (last (.role .release)) { locked with driverFault := true } l) (last (.role .release))
        .dwellEnd .driver none) ∧
      (∀ r i l, r.bay = 0 → (releasing .releasing r i l).run = some r ∧ DriveLaw (releasing .releasing r i l) ∧
        ((releasing .releasing r i l).bay 0).claim = some token.id ∧ TableLaw (releasing .releasing r i l)) ∧
      (releasing .releasing (last (.role .release)) locked [0, 3]).entry token.id = some { own .ownHeld with bay := some 0 } ∧
      NextCandidate (releasing .releasing (last (.role .release)) locked [0, 3]) token 1 3 ∧
      ∀ j d, ¬NextCandidate (releasing .releasing (last (.role .release)) locked [0]) token j d :=
  ⟨fun _ _ h => ends_success _ _ h, fun _ => ends_driver _ _ rfl,
    fun r i l h => ⟨rfl, (releasing_meets _ r i l h).2.1, rfl, tableOf_law _ _ rfl⟩, by decide +kernel,
    ⟨by decide, rfl, ⟨by decide, rfl, rfl, ⟨1, rfl, .inr rfl⟩, .inl rfl, rfl⟩, fun k _ h h' => absurd h' (Nat.not_lt.mpr h)⟩,
    fun j d h => by
      have h1 := h.1
      have h2 := h.2.1
      match j with
      | 0 => exact absurd h1 (Nat.lt_irrefl 0)
      | k + 1 => cases h2⟩

theorem witness_RelatchesEnd :
    let s (r : Run) (i : BayInputs) := releasing .relatching r i []
    (∀ i, i.driverFault = false → Ends (s (last (.role .relatch)) i) (last (.role .relatch)) .dwellEnd .success none) ∧
      Ends (s (last (.role .relatch)) { locked with driverFault := true }) (last (.role .relatch)) .dwellEnd .driver none ∧
      (∀ i, ((s (last (.role .relatch)) i).bay 0).cause = some .notTaken ∧ TableLaw (s (last (.role .relatch)) i) ∧
        DriveLaw (s (last (.role .relatch)) i) ∧ (s (last (.role .relatch)) i).rlc.protocol.length < 12) ∧
      (s (last (.role .relatch)) locked).entry token.id = some { own .ownHeld with bay := some 0 } :=
  ⟨fun _ h => ends_success _ _ h, ends_driver _ _ rfl,
    fun i => ⟨rfl, tableOf_law _ _ rfl, (releasing_meets _ _ i [] rfl).2.1, Nat.zero_lt_succ 11⟩, by decide +kernel⟩

/-- Bay 0, its tag being read, in a further SERVICE-CLOSE run. -/
def closing (n : Nat) (r : Run) : State :=
  { moving .serviceOpen r locked with bays := post.bays.set 0 { docked with state := .serviceOpen, tagRead := some n } }

theorem witness_StoppedRuns :
    (∀ state run i, i.driverFault = false →
      Ends (moving state (stops run) i) (stops run) .dwellEnd .stopped none ∧ DriveLaw (moving state (stops run) i)) ∧
      (∀ f : FollowOn, let s : State := { moving .reopening (stops (.role .relatch)) locked with
          bays := post.bays.set 0 { docked with state := .reopening, followOn := some f } }
        Ends s (stops (.role .relatch)) .dwellEnd .stopped none ∧ DriveLaw s ∧ (s.bay 0).followOn = some f) ∧
      (last (.role .patrol)).dwelling = true ∧ (seeks (.role .patrol)).dwelling = false ∧
      (∀ state r i, r.bay = 0 → (moving state r i).run = some r ∧ ((moving state r i).bay 0).tagRead = none ∧
        ((moving state r i).bay 0).followOn = none ∧ (moving state r i).mode.working = true ∧ DriveLaw (moving state r i)) ∧
      (∀ n r, r.bay = 0 → (closing n r).run = some r ∧ ((closing n r).bay 0).tagRead = some n ∧
        ((closing n r).bay 0).state = .serviceOpen ∧ ((closing n r).bay 0).followOn = none ∧ DriveLaw (closing n r)) ∧
      (last (.role .serviceClose)).dwelling = true ∧ (seeks (.role .serviceClose)).dwelling = false ∧
      locked.presence = true ∧ locked.seat = true ∧
      (let w := releasing .relatching (last (.role .relatch)) locked []
       w.entry 0xC44 = some { own .ownHeld with bay := some 0 } ∧ (w.bay 0).claim = some 0xC44) :=
  ⟨fun state run i h => ⟨ends_stopped _ run h, (moving_meets state _ i rfl).2.2.2.2.2.2.2⟩,
    fun f => ⟨ends_stopped _ _ rfl,
      (moving_meets .reopening (stops (.role .relatch)) locked rfl).2.2.2.2.2.2.2, rfl⟩,
    rfl, rfl, fun state r i h => ⟨rfl, rfl, rfl, rfl, (moving_meets state r i h).2.2.2.2.2.2.2⟩,
    fun _ r h => ⟨rfl, rfl, rfl, rfl, (moving_meets .serviceOpen r locked h).2.2.2.2.2.2.2⟩, rfl, rfl, by decide +kernel⟩

/-! ### Hypotheses met: laws -/

/-- A command that changes the post: the settle window of its claim ends. -/
theorem settles : exec .settleExpiry settling = .next (after .settleExpiry settling) := rfl

theorem witness_EveryCommandKeepsTheTableLaw :
    TableLaw settling ∧ exec .settleExpiry settling = .next (after .settleExpiry settling) := ⟨tableOf_law _ _ rfl, settles⟩

theorem witness_EveryCommandKeepsTheBounds :
    QueueLaw settling ∧ VetoLaw settling ∧ SetLaw settling ∧ StoreLaw settling ∧
      exec .settleExpiry settling = .next (after .settleExpiry settling) := by
  refine ⟨?_, ?_, ?_, ?_, settles⟩
  · unfold QueueLaw; decide +kernel
  · unfold VetoLaw; decide +kernel
  · unfold SetLaw; decide +kernel
  · unfold StoreLaw; decide +kernel

theorem witness_EveryCommandKeepsTheAttentionLaw :
    AttentionLaw troubled ∧ exec .beaconLossExpiry troubled = .next (after .beaconLossExpiry troubled) := by
  refine ⟨?_, rfl⟩
  unfold AttentionLaw
  decide +kernel

theorem witness_EveryCommandKeepsTheDriveLaw :
    DriveLaw settling ∧ exec .settleExpiry settling = .next (after .settleExpiry settling) := by
  refine ⟨?_, settles⟩
  unfold DriveLaw
  decide +kernel

theorem witness_ModesChangeByTheirTable :
    let s : State := { sending .sending 0 (.lapse 1 .noBay) .fixed post with mode := .maintenance, restartDue := true }
    RestartLaw s ∧ exec .lapseEcho s = .next (after .lapseEcho s) ∧ ¬isReset .lapseEcho ∧
      (after .lapseEcho s).mode = .joining := by
  refine ⟨?_, rfl, id, by decide +kernel⟩
  unfold RestartLaw
  decide

theorem witness_ClosingEndsWhenAllBaysAreIdle :
    let s : State := { settling with mode := .closing }
    let t : State := { post with mode := .closing }
    ClosingLaw s ∧ exec .settleExpiry s = .next (after .settleExpiry s) ∧ (after .settleExpiry s).mode = .closing ∧
      t.mode = .closing ∧ t.tap.phase = .idle ∧ (∀ b : Bay, (t.bay b).state = .docked) ∧ s.tap.phase ≠ .idle :=
  ⟨fun _ => .inl (by decide), rfl, by decide +kernel, rfl, rfl, by decide, by decide⟩

theorem witness_FramesAreReadBackUndamagedAndDamageIsFound :
    envelopeSound encodedClaim = true ∧ envelopeSound (encodedClaim ++ [0]) = false ∧
      0xAA3B ≠ checkWord encodedClaim := by decide +kernel

/-! ### One step each, on the spec's worked numbers -/

/-- Post 7 of chapter 1's worked table, and its eight tokens. -/
def post7 : State :=
  { post with strap := 7, image := some { image with site := 412, skewS := 120 }, ssu := ⟨some 1500, .set, some 1, some 1⟩ }

def presented : List Token :=
  [ ⟨0x40, 412, 255, 255, 0, 2, 1000, 1900, 0⟩, ⟨0x41, 413, 7, 0, 0, 2, 1000, 1900, 0⟩,
    ⟨0x42, 65535, 9, 255, 0, 2, 1000, 1900, 0⟩, ⟨0x43, 413, 40, 255, 0, 2, 1000, 1900, 0⟩,
    ⟨0x44, 412, 7, 255, 0, 1, 1700, 2400, 0⟩, ⟨0x45, 412, 7, 255, 0, 1, 900, 1350, 0⟩,
    ⟨0x46, 412, 7, 255, 0, 1, 900, 1380, 0⟩, ⟨0, 412, 7, 255, 0, 1, 900, 1900, 0⟩ ]

theorem test_intake_tests :
    presented.map post7.intakeVerdict =
        [none, some .wrongSite, some .wrongPost, some .malformed, some .tooEarly, some .expired, none, some .malformed] ∧
      presented.map ({ post7 with ssu := State.reset.ssu } : State).intakeVerdict =
        [some .noTime, some .wrongSite, some .wrongPost, some .malformed, some .noTime, some .noTime, some .noTime,
          some .malformed] := by decide +kernel

/-- Chapter 2: with the table full the earliest evictable entry gives way, the lowest index of equals. -/
theorem test_claim_evicts :
    let places := (List.replicate 256 (some { peer with token := 1 })).set 1 (some { own .ownHeld with expiry := 70000 })
    let equals := (places.set 3 (some ⟨0x14, .void, some 6, some 2, 75000, false⟩)).set 9 (some ⟨0x15, .revoked, none, none, 75000, false⟩)
    let s : State := { post with table := equals }
    let t := after (.claim (toAll 1 5 ([0, 0, 0, 0, 0, 0, 0, 0xA1] ++ [2, 0, 1, 0x3C, 0x68]))) s
    t.table[3]? = some (some ⟨0xA1, .peerClaimed, some 5, some 2, 81000, false⟩) ∧ t.table.length = 256 ∧
      attentionPairs t = [(.table, .tablePressure)] := by decide +kernel

/-- Chapter 6: settle expiry with bay 3 forced walks on to bay 0. -/
theorem test_settle_expiry_walks_on :
    let t := after .settleExpiry { settling with bays := post.bays.set 3 BayRecord.reset }
    t.tap.rotation = 0 ∧ t.tap.phase = .releaseStart ∧ (t.bay 0).state = .releasing ∧ (t.bay 0).claim = some 0xC44 ∧
      t.entry 0xC44 = some ⟨0xC44, .ownHeld, some 8, some 0, 75660, false⟩ ∧ t.driveRequest 0 = .running (.role .release) := by
  decide +kernel

/-- Chapter 8: the edge at the 37th bolt step out is the measured count. -/
theorem test_edge_is_measured :
    let r : Run := { runOf (.role .release) [out3, ⟨.out 1, false, .edge .clear 40⟩, dwell40] 2 6 with outs := 36, edge := .seekHigh }
    let s : State := { running .releasing r with inputs := post.inputs.set 0 open' }
    (after .boltStepEnd s).run.map (fun x => (x.index, x.outs, x.measured)) = some (3, 37, some 37) := by decide +kernel

/-- Chapter 9: the record in the last slot of segment 7 fills it, queues LOG-READY(7, 9088) and blocks the store. -/
theorem test_store_fills_and_blocks :
    let s : State := { reading 1 .docking none with
      store := { read119 with
        slots := (List.replicate 1024 none).set 896 (some ⟨9088, none, false, false, .resetMark⟩), writer := 1023, nextSeq := 9215 } }
    let t := after (.tagReadAttemptCompletion 3 [0, 0, 0x9C, 0xB5, 1, 0x72]) s
    t.store.writer = 0 ∧ t.store.nextSeq = 9216 ∧ t.flagged 7 = true ∧ t.blocked = true ∧
      t.rlc.service.head? = some ⟨.logReady 7 9088, 0⟩ ∧ attentionPairs t = [(.store, .storeBlocked)] := by decide +kernel

/-- Chapter 9: the echo that moves segment 0's cursor to its end clears the flag, and the pending records drain. -/
theorem test_store_drains :
    let s : State := serviceSending (.logData 0 0 120 eight true none true) .fixed { post with
      store := { read119 with
        cursors := [120, 0, 0, 0, 0, 0, 0, 0], writer := 0, nextSeq := 9216, waiting := [.noBay 0xE77, .resetMark] } }
    let t := after .logDataEcho s
    t.store.waiting = [] ∧ t.store.writer = 2 ∧ t.flagged 0 = false ∧
      t.store.slots.take 2 = [some ⟨9216, some 72000, false, true, .noBay 0xE77⟩, some ⟨9217, some 72000, false, true, .resetMark⟩] := by
  decide +kernel

/-- Chapter 10: the echo of a STATUS-REPLY with its take flag set lets the highest waiting record in. -/
theorem test_attention_drains :
    let entry (n : Nat) : QueuedAttention := ⟨⟨.table, .tablePressure, none, n⟩, false⟩
    let s := serviceSending (.statusReply 0 true) (.status .service (some ⟨.unset, none, ⟨⟨.empty, none, 0⟩, ⟨.empty, none, 0⟩,
        ⟨.empty, none, 0⟩, ⟨.empty, none, 0⟩⟩, 0, [], false, 18, some (entry 0).att⟩))
      { post with aq := ⟨(List.range 16).map entry, [⟨.post, .coldJoin, none, 1⟩, ⟨.bay 1, .tagUnread, none, 2⟩,
        ⟨.bay 3, .forcedRemoval, none, 1⟩], true⟩ }
    let t := after .statusReplyEcho s
    t.aq.queue.length = 16 ∧ t.aq.queue.getLast? = some ⟨⟨.bay 3, .forcedRemoval, none, 1⟩, false⟩ ∧
      t.aq.waiting = [⟨.post, .coldJoin, none, 1⟩, ⟨.bay 1, .tagUnread, none, 2⟩] := by decide +kernel

/-- Chapter 5: the tracked dumper's first DUMP is merged, the window starts again once, and its frame and entry count. -/
theorem test_dump_is_tracked :
    let s : State := { joining 0 0 with ju := { JoinUnit.reset with join := .listening, window := some 10000 } }
    let t := after (.dump (dumpFrame 0)) s
    t.entry 0xC44 = some ⟨0xC44, .peerClaimed, some 5, some 2, 75660, false⟩ ∧ t.ju.tracked = some 5 ∧
      t.ju.framesCounted = 1 ∧ t.ju.entriesCounted = 1 ∧ t.ju.restartUsed = true := by decide +kernel

/-- Chapter 11: the restart waits for the NOTICE on the line and follows its echo. -/
theorem test_restart_follows_the_echo :
    let s := due .restart none (serviceSending (.notice trouble) .fixed troubled)
    (after .actionDelayExpiry s).restartDue = true ∧ (after .actionDelayExpiry s).mode = .maintenance ∧
      (after .noticeEcho (after .actionDelayExpiry s)).mode = .joining ∧
      (after .noticeEcho (after .actionDelayExpiry s)).aq.queue = [] := by decide +kernel

/-- Log 14: a further SERVICE-CLOSE run that fails after the tag read has ended leaves its bay FAULTED (R131). -/
theorem test_service_close_run_outlasts_a_tag_read :
    let close := runOf (.role .serviceClose) [seek60] 1 59
    let s : State := { running .serviceOpen close with
      bays := post.bays.set 0 { BayRecord.reset with state := .serviceOpen, tagRead := some 1 }
      inputs := post.inputs.set 0 { locked with home := false } }
    let t := after (.tagReadAttemptCompletion 0 [0, 0, 0x9C, 0xB5, 1, 0x72]) s
    (t.bay 0).state = .serviceOpen ∧ (t.bay 0).bikeId = some 40117 ∧ ((after .boltStepEnd t).bay 0).state = .faulted := by
  decide +kernel

/-- Chapter 11: the withdrawal of the last bicycle owed takes a CLOSING post to MAINTENANCE. -/
theorem test_closing_ends :
    let s : State := { holding .opened { locked with seat := false } with mode := .closing, run := none, drive := ⟨[], none⟩ }
    (after (.presenceFalling 0) s).mode = .maintenance := by decide +kernel

/-- Chapter 8: at start-up the drive goes to bay 0, and a HOME run that ends hands it to bay 1. -/
theorem test_drive_at_start_up :
    let s : State := { State.reset with strap := 8, inputs := post.inputs }
    let t := after (.endOfStartUp (some record)) s
    t.drive.holder = some 0 ∧ (after .faultResetPulseEnd t).drive.holder = some 1 ∧
      ((after .faultResetPulseEnd t).bay 0).tagRead = some 1 := by decide +kernel

end Sys2Proof.Tests
end

