-- ==== Sys2Proof/Proofs/StampKept.lean ====
section
/-! SUPPORT. StampKept: what the shared operations leave of the Site Stamp Unit, and the stamp law with the stamp's growth as
one invariant over the commands that are no reset (R11 to R16). -/

namespace Sys2Proof.Machine

/-! ### The Site Stamp Unit under the shared operations -/

section

variable (s : State)

@[simp] theorem State.raise_ssu (src : Source) (code : Code) : (s.raise src code).ssu = s.ssu := by
  obtain ⟨_, _, e⟩ := s.raise_sets src code; rw [e]

@[simp] theorem State.offerNotice_ssu : s.offerNotice.ssu = s.ssu := by
  obtain ⟨_, _, e⟩ := s.offerNotice_sets; rw [e]

@[simp] theorem State.noticeSent_ssu : s.noticeSent.ssu = s.ssu := by
  obtain ⟨_, _, e⟩ := s.noticeSent_sets; rw [e]

@[simp] theorem State.takeOldest_ssu : s.takeOldest.ssu = s.ssu := by
  obtain ⟨_, _, e⟩ := s.takeOldest_sets; rw [e]

@[simp] theorem State.queueProtocol_ssu (f : Frame) : (s.queueProtocol f).ssu = s.ssu := by
  obtain ⟨_, _, e⟩ := s.queueProtocol_sets f; rw [e]

@[simp] theorem State.queueService_ssu (f : Frame) : (s.queueService f).ssu = s.ssu := by
  obtain ⟨_, e⟩ := s.queueService_sets f; rw [e]

@[simp] theorem State.removeProtocol_ssu (p : Frame → Bool) : (s.removeProtocol p).ssu = s.ssu := by
  obtain ⟨_, _, e⟩ := s.removeProtocol_sets p; rw [e]

@[simp] theorem State.dropAttempt_ssu (a : Attempt) : (s.dropAttempt a).ssu = s.ssu := by
  obtain ⟨_, _, e⟩ := s.dropAttempt_sets a; rw [e]

@[simp] theorem State.countVeto_ssu (a : Attempt) : (s.countVeto a).ssu = s.ssu := by
  obtain ⟨_, _, e⟩ := s.countVeto_sets a; rw [e]

@[simp] theorem State.decideObject_ssu (t : TokenId) (c : Addr) (r : ObjectReason) :
    (s.decideObject t c r).ssu = s.ssu := by
  obtain ⟨_, _, _, _, _, e⟩ := s.decideObject_sets t c r; rw [e]

@[simp] theorem State.insertEntry_ssu (x : Entry) : (s.insertEntry x).ssu = s.ssu := by
  obtain ⟨_, _, _, e⟩ := s.insertEntry_sets x; rw [e]

@[simp] theorem State.handOver_ssu (held : Bool) (body : RecordBody) : (s.handOver held body).ssu = s.ssu := by
  obtain ⟨_, _, _, e⟩ := s.handOver_sets held body; rw [e]

@[simp] theorem State.clearForRestart_ssu : s.clearForRestart.ssu = s.ssu := by
  obtain ⟨_, _, e⟩ := s.clearForRestart_sets; rw [e]

/-- Bay work leaves the Site Stamp Unit. -/
theorem BayWork.ssu {s t : State} (h : BayWork s t) : t.ssu = s.ssu := by
  obtain ⟨_, _, _, _, _, _, e, _⟩ := h.frame; exact e

/-! ### The second interval -/

/-- Below the greatest stamp the interval's expiry advances the stamp, with the sweep (R12, R16). -/
theorem State.advance_of_lt (a : Stamp) (h : a.toNat < Config.stampMax) : s.advance a =
    { s with
      ssu := { s.ssu with stamp := some (a + 1), second := some Config.secondMs }
      table := s.table.map (fun slot => slot.filter (fun e =>
        !(e.status.evictable && e.expiry.toNat < (a + 1).toNat))) } := by
  unfold State.advance; rw [if_pos h]; rfl

/-- At the greatest stamp the interval's expiry starts the next interval and does no more (R12). -/
theorem State.advance_of_not_lt (a : Stamp) (h : ¬a.toNat < Config.stampMax) :
    s.advance a = { s with ssu := { s.ssu with second := some Config.secondMs } } := by
  unfold State.advance; rw [if_neg h]; rfl

/-- At each expiry the stamp unit keeps its state and beacon-loss timer, and its stamp is no earlier. -/
theorem State.advance_ssu {s : State} {a : Stamp} (h : s.ssu.stamp = some a) : ∃ b : Stamp, a.toNat ≤ b.toNat ∧
    (s.advance a).ssu = { s.ssu with stamp := some b, second := some Config.secondMs } := by
  by_cases hm : a.toNat < Config.stampMax
  · refine ⟨a + 1, ?_, by rw [s.advance_of_lt a hm]⟩
    change a.toNat < 4294967295 at hm
    bv_omega
  · exact ⟨a, Nat.le_refl _, by rw [s.advance_of_not_lt a hm, ← h]⟩

end

end Sys2Proof.Machine

namespace Sys2Proof.Safety

open Sys2Proof.Machine

/-! ### The stamp law (R11) -/

/-- The stamp law speaks of the Site Stamp Unit alone. -/
theorem StampLaw.of_ssu {s t : State} (e : t.ssu = s.ssu) (h : StampLaw s) : StampLaw t := by
  unfold StampLaw; rw [e]; exact h

/-- While the stamp state is UNSET there is no stamp and no timer runs. -/
theorem StampLaw.unset {s : State} (h : StampLaw s) (hs : s.ssu.state = .unset) :
    s.ssu.stamp = none ∧ s.ssu.beaconLoss = none ∧ s.ssu.second = none := by
  unfold StampLaw at h; rw [hs] at h; exact h

/-- While the stamp state is SET or STALE there is a stamp and the second interval runs. -/
theorem StampLaw.running {s : State} (h : StampLaw s) (hs : s.ssu.state ≠ .unset) :
    (∃ a, s.ssu.stamp = some a) ∧ ∃ n, s.ssu.second = some n := by
  unfold StampLaw at h
  cases e : s.ssu.state with
  | unset => exact absurd e hs
  | set | stale =>
    rw [e] at h
    obtain ⟨ha, _, hn⟩ := h
    exact ⟨Option.isSome_iff_exists.mp ha, Option.isSome_iff_exists.mp hn⟩

/-- A SET unit with its stamp and both timers meets the law. -/
theorem stampLaw_of_set {t : State} {a : Stamp} {m n : Nat} (e : t.ssu = ⟨some a, .set, some m, some n⟩) :
    StampLaw t := by
  unfold StampLaw; rw [e]; exact ⟨rfl, rfl, rfl⟩

/-- A STALE unit with its stamp and second interval, the beacon-loss timer stopped, meets the law. -/
theorem stampLaw_of_stale {t : State} {a : Stamp} {n : Nat} (e : t.ssu = ⟨some a, .stale, none, some n⟩) :
    StampLaw t := by
  unfold StampLaw; rw [e]; exact ⟨rfl, rfl, rfl⟩

/-- The law survives another stamp and second interval while the stamp state is SET or STALE. -/
theorem StampLaw.tick {s t : State} {b : Stamp} {n : Nat} (h : StampLaw s) (hs : s.ssu.state ≠ .unset)
    (e : t.ssu = { s.ssu with stamp := some b, second := some n }) : StampLaw t := by
  unfold StampLaw at h ⊢
  rw [e]
  cases hst : s.ssu.state with
  | unset => exact absurd hst hs
  | set | stale =>
    rw [hst] at h
    obtain ⟨_, hb, _⟩ := h
    exact ⟨rfl, hb, rfl⟩

/-! ### The invariant -/

theorem StampKept.refl (s : State) : StampKept s s := fun a h => ⟨a, h, Nat.le_refl _⟩

/-- The post meets the stamp law, and its stamp is no earlier than that of `start`. -/
structure StampSince (start t : State) : Prop where
  law : StampLaw t
  kept : StampKept start t

namespace StampSince

variable {start s t : State}

/-- What leaves the Site Stamp Unit keeps the invariant. -/
theorem of_ssu (e : t.ssu = s.ssu) (h : StampSince start s) : StampSince start t :=
  ⟨h.law.of_ssu e, fun a ha => by rw [e]; exact h.kept a ha⟩

/-- A stamp that is no earlier, taken within the law, keeps the invariant. -/
theorem later {a b : Stamp} (h : StampSince start s) (ha : s.ssu.stamp = some a) (hb : t.ssu.stamp = some b)
    (hab : a.toNat ≤ b.toNat) (law : StampLaw t) : StampSince start t := by
  refine ⟨law, fun x hx => ?_⟩
  obtain ⟨y, hy, hxy⟩ := h.kept x hx
  obtain rfl : y = a := Option.some.inj (hy.symm.trans ha)
  exact ⟨b, hb, Nat.le_trans hxy hab⟩

/-- From a post with no stamp every lawful post keeps the invariant, for `start` then had none either. -/
theorem first (h : StampSince start s) (hn : s.ssu.stamp = none) (law : StampLaw t) : StampSince start t := by
  refine ⟨law, fun x hx => ?_⟩
  obtain ⟨y, hy, _⟩ := h.kept x hx
  exact absurd (hn.symm.trans hy) nofun

/-- R13, R15: a stamp is taken only where there is none, or one that is earlier. -/
theorem takeStamp (x : Stamp)
    (hx : s.ssu.state = .unset ∨ s.ssu.stamp = none ∨ ∃ a, s.ssu.stamp = some a ∧ a.toNat < x.toNat)
    (h : StampSince start s) : StampSince start (s.takeStamp x) := by
  have law : StampLaw (s.takeStamp x) := stampLaw_of_set (by rw [s.takeStamp_sets x])
  rcases hx with hu | hn | ⟨a, ha, hlt⟩
  · exact h.first (h.law.unset hu).1 law
  · exact h.first hn law
  · exact h.later ha (by rw [s.takeStamp_sets x]) (Nat.le_of_lt hlt) law

/-- R12: the expiry of the second interval never lowers the stamp. -/
theorem advance {a : Stamp} (ha : s.ssu.stamp = some a) (h : StampSince start s) : StampSince start (s.advance a) := by
  have set : s.ssu.state ≠ .unset := fun hu => by
    rw [(h.law.unset hu).1] at ha; cases ha
  obtain ⟨b, hab, e⟩ := State.advance_ssu ha
  exact h.later ha (by rw [e]) hab (h.law.tick set e)

/-- R13, R15: the state becomes SET with the stamp as it is. -/
theorem confirm {a : Stamp} {second : Timer} (hs : s.ssu.state ≠ .unset) (ha : s.ssu.stamp = some a)
    (h2 : second = s.ssu.second ∨ second = some Config.secondMs) (h : StampSince start s) :
    StampSince start (s.setSsu ⟨some a, .set, some s.beaconLossMs, second⟩) := by
  have running : ∃ n, second = some n := by
    rcases h2 with rfl | rfl
    · exact (h.law.running hs).2
    · exact ⟨_, rfl⟩
  obtain ⟨n, rfl⟩ := running
  exact h.later ha rfl (Nat.le_refl _) (stampLaw_of_set rfl)

/-- R14: the state becomes STALE, with the stamp and its interval kept. -/
theorem goStale (hb : s.ssu.beaconLoss.isSome = true) (h : StampSince start s) :
    StampSince start (s.setSsu { s.ssu with state := .stale, beaconLoss := none }) := by
  have set : s.ssu.state ≠ .unset := fun hu => by
    rw [(h.law.unset hu).2.1] at hb; cases hb
  obtain ⟨⟨a, ha⟩, n, hn⟩ := h.law.running set
  exact h.later ha ha (Nat.le_refl _) (stampLaw_of_stale (a := a) (n := n) (by rw [← ha, ← hn]; rfl))

/-- Of the operations on the post only the four on the stamp touch the Site Stamp Unit. -/
theorem keeps (start : State) : Keeps (StampSince start) where
  same _ _ held := of_ssu held.ssu
  raise s src code := of_ssu (s.raise_ssu src code)
  offerNotice s := of_ssu s.offerNotice_ssu
  noticeSent s := of_ssu s.noticeSent_ssu
  clearNoticed _ := of_ssu rfl
  takeOldest s := of_ssu s.takeOldest_ssu
  hush _ _ := of_ssu rfl
  queueProtocol s f := of_ssu (s.queueProtocol_ssu f)
  queueService s f := of_ssu (s.queueService_ssu f)
  removeProtocol s p := of_ssu (s.removeProtocol_ssu p)
  dropAttempt s a := of_ssu (s.dropAttempt_ssu a)
  countVeto s a _ _ _ := of_ssu (s.countVeto_ssu a)
  headLeaves _ _ _ _ := of_ssu rfl
  unmark _ _ := of_ssu rfl
  decideObject s t c r := of_ssu (s.decideObject_ssu t c r)
  forgetObjection _ _ _ := of_ssu rfl
  updateEntry _ _ _ _ := of_ssu rfl
  insertEntry s e := of_ssu (s.insertEntry_ssu e)
  takeStamp _ x hx := takeStamp x hx
  advance _ _ _ _ ha := advance ha
  confirm _ _ _ hs ha h2 := confirm hs ha h2
  goStale _ hb := goStale hb
  handOver s held body := of_ssu (s.handOver_ssu held body)
  keepStore _ _ _ _ _ _ := of_ssu rfl
  setDelays _ _ _ := of_ssu rfl
  requestRun s b run := of_ssu (s.requestRun_work b run).ssu
  withdraw s b := of_ssu (s.withdraw_work b).ssu
  goOn s _ r' _ _ := of_ssu (s.setRun_work (some r')).ssu
  ends s _ r' result _ _ := of_ssu (s.completeRun_work r' result).ssu
  restart s := of_ssu s.clearForRestart_ssu

end StampSince

/-- A power-on reset leaves the stamp UNSET, with no stamp and no timer (R11, R173, R180). -/
theorem stampLaw_of_reset {c : Instr} {s t : State} (hc : isReset c) (e : exec c s = .next t) : StampLaw t := by
  have unset (a : Addr) : StampLaw (s.powerOnReset a) := ⟨rfl, rfl, rfl⟩
  cases c with
  | powerOn a => cases e; exact unset a
  | resetPin a => cases e; exact unset a
  | _ => exact hc.elim

/-! ### The obligation -/

/-- R12: while the stamp state is SET or STALE each expiry of the second interval is acted on. -/
theorem StampLaw.exec_secondIntervalExpiry {s : State} {a : Stamp} (law : StampLaw s) (hs : s.ssu.state ≠ .unset)
    (ha : s.ssu.stamp = some a) : exec .secondIntervalExpiry s = .next (s.advance a) := by
  obtain ⟨_, n, hn⟩ := law.running hs
  change execSecondIntervalExpiry s = _
  unfold execSecondIntervalExpiry
  rw [hn, ha]

/-- Settles O32, by the invariant `StampSince s`: every command that is no reset keeps it (`StampSince.keeps`), and a reset
leaves the stamp UNSET. -/
theorem secondsAdvanceTheStampAndItNeverDecreases : Obligations.SecondsAdvanceTheStampAndItNeverDecreases := by
  refine ⟨fun s a law hs ha => ⟨fun hlt => ?_, fun hmax => ?_⟩, fun c s t law e => ?_⟩
  · rw [law.exec_secondIntervalExpiry hs ha, s.advance_of_lt a hlt]
  · rw [law.exec_secondIntervalExpiry hs ha, s.advance_of_not_lt a (Nat.not_lt.mpr (Nat.le_of_eq hmax.symm))]
  · by_cases hc : isReset c
    · exact ⟨stampLaw_of_reset hc e, fun hn => absurd hc hn⟩
    · have since := (StampSince.keeps s).exec s c hc t ⟨law, StampKept.refl s⟩ e
      exact ⟨since.law, fun _ => since.kept⟩

end Sys2Proof.Safety
end

