-- ==== Sys2Proof/Proofs/LapseHeard.lean ====
section
/-! SUPPORT. LapseHeard: what a LAPSE of another station does to the Claim Table (R72). -/

namespace Sys2Proof.Machine

section

variable (s : State) (c : Addr) (t : TokenId)

/-- R72: a LAPSE filters every place of the table and sets nothing else; only the PEER-CLAIMED entry of the token whose
claimant is the sender does not pass. -/
theorem State.takeLapse_eq : s.takeLapse c t = { s with
    table := s.table.map (fun slot => slot.filter (fun e =>
      !(e.token == t && e.status == .peerClaimed && e.claimant == some c))) } := by
  unfold State.takeLapse State.updateEntry
  rw [updateTable_eq]
  refine congrArg s.setTable (List.map_congr_left (fun slot _ => ?_))
  cases slot with
  | none => rfl
  | some e =>
    rw [Option.filter_some]
    by_cases ht : e.token = t
    · by_cases hs : e.status = .peerClaimed
      · by_cases hc : e.claimant = some c
        · simp [ht, hs, hc]
        · simp [ht, hs, hc]
      · simp [ht, hs]
    · simp [ht]

/-- R72: the token whose PEER-CLAIMED entry names the sender is unknown after its LAPSE, where no token is held twice. -/
theorem State.takeLapse_entry_none {e : Entry} (hl : Safety.TableLaw s) (he : s.entry t = some e)
    (hs : e.status = .peerClaimed) (hc : e.claimant = some c) : (s.takeLapse c t).entry t = none := by
  refine s.entry_removed t _ hl (fun x hx => ?_)
  obtain rfl : e = x := Option.some.inj (he.symm.trans hx)
  exact if_pos ⟨hs, hc⟩

end

end Sys2Proof.Machine

namespace Sys2Proof.Safety

open Sys2Proof.Machine

/-- R51, R54, R72: a LAPSE that passes the tests is taken with the veto slot undriven. -/
theorem exec_lapse_taken {f : RowFrame} {s : State} {tok : TokenId} (taken : TakenFromAny 1 f s)
    (read : readLapse f.payload = some tok) : exec (.lapse f) s = .next ((heard s).takeLapse f.source tok) :=
  congrArg Host.Outcome.next (s.receive_any .lapse f tok _ _ taken read rfl rfl)

/-- Settles O15: the frame is taken (`exec_lapse_taken`), it filters the table and leaves the rest (`State.takeLapse_eq`),
and an entry that stands alone for its token leaves it unknown (`State.takeLapse_entry_none`). -/
theorem lapseHeardRemovesItsSendersClaim : Obligations.LapseHeardRemovesItsSendersClaim := by
  intro f s tok taken read
  have filtered := (heard s).takeLapse_eq f.source tok
  refine ⟨(heard s).takeLapse f.source tok, exec_lapse_taken taken read, ?table, ?rest, ?unknown⟩
  case table => rw [filtered]; rfl
  case rest => rw [filtered]; rfl
  case unknown =>
    rintro law ⟨e, found, peer, sender⟩
    exact (heard s).takeLapse_entry_none f.source tok law found peer sender

end Sys2Proof.Safety
end

section
/-! SUPPORT. TagAnswers: a bike tag's six bytes as `readTag` reads them (R184), and what a bay makes of an attempt's end
(R112, R118). -/

namespace Sys2Proof.Machine

/-! ### The six bytes of an answer -/

/-- Bytes joined to one word have the value of their big-endian field. -/
theorem toNat_append_byte {n : Nat} (x : BitVec n) (k : Byte) : (x ++ k).toNat = x.toNat * 256 + k.toNat := by
  rw [BitVec.toNat_append, ← Nat.shiftLeft_add_eq_or_of_lt k.isLt, Nat.shiftLeft_eq]

/-- R184: the bike ID of a tag answer is its first four bytes joined. -/
theorem field_bikeId (i0 i1 i2 i3 c k : Byte) :
    field [i0, i1, i2, i3, c, k] 0 4 = (i0 ++ i1 ++ i2 ++ i3 : BitVec 32).toNat := by
  calc field [i0, i1, i2, i3, c, k] 0 4
      = (((0 * 256 + i0.toNat) * 256 + i1.toNat) * 256 + i2.toNat) * 256 + i3.toNat := rfl
    _ = (i0 ++ i1 ++ i2 ++ i3).toNat := by
      rw [toNat_append_byte, toNat_append_byte, toNat_append_byte, Nat.zero_mul, Nat.zero_add]

/-- R184: the class of a tag answer is its fifth byte. -/
theorem field_bikeClass (i0 i1 i2 i3 c k : Byte) : field [i0, i1, i2, i3, c, k] 4 1 = c.toNat := Nat.zero_add _

/-- Bytes folded by exclusive-or come to 0 exactly when the last is the fold of those before it. -/
theorem foldl_xor_concat_eq_zero_iff (bytes : List Byte) (k x : Byte) :
    (bytes ++ [k]).foldl (fun y b => y ^^^ b) x = 0 ↔ k = bytes.foldl (fun y b => y ^^^ b) x := by
  rw [List.foldl_append, List.foldl_cons, List.foldl_nil]
  exact BitVec.xor_eq_zero_iff.trans eq_comm

/-- R184: the tag check matches when the last byte is the exclusive-or of the first five with 0x5A. -/
theorem tagCheck_iff (i0 i1 i2 i3 c k : Byte) :
    [i0, i1, i2, i3, c, k].foldl (fun x b => x ^^^ b) 0x5A#8 = 0#8 ↔
      k = i0 ^^^ i1 ^^^ i2 ^^^ i3 ^^^ c ^^^ 0x5A := by
  have reordered : [i0, i1, i2, i3, c].foldl (fun y b => y ^^^ b) 0x5A#8 =
      i0 ^^^ i1 ^^^ i2 ^^^ i3 ^^^ c ^^^ 0x5A := by
    simp only [List.foldl_cons, List.foldl_nil]
    ac_rfl
  rw [← reordered]
  exact foldl_xor_concat_eq_zero_iff [i0, i1, i2, i3, c] k 0x5A

/-- R112, R184: six bytes are read when their check matches, the bike ID is not 0 and the class is at most 3. -/
theorem readTag_six (i0 i1 i2 i3 c k : Byte) :
    readTag [i0, i1, i2, i3, c, k] =
      if k = i0 ^^^ i1 ^^^ i2 ^^^ i3 ^^^ c ^^^ 0x5A ∧ (i0 ++ i1 ++ i2 ++ i3 : BitVec 32) ≠ 0 ∧ c.toNat ≤ 3 then
        some (i0 ++ i1 ++ i2 ++ i3, c.setWidth 2)
      else none := by
  have length : [i0, i1, i2, i3, c, k].length = 6 := rfl
  have nonzero : (i0 ++ i1 ++ i2 ++ i3 : BitVec 32).toNat ≠ 0 ↔ (i0 ++ i1 ++ i2 ++ i3 : BitVec 32) ≠ 0 :=
    not_congr (BitVec.toNat_inj (y := 0))
  unfold readTag
  simp only [length, true_and, tagCheck_iff, field_bikeId, field_bikeClass, nonzero, BitVec.ofNat_toNat, BitVec.setWidth_eq]

/-- R112: an answer of fewer than 6 bytes is unread. -/
theorem readTag_short {answer : List Byte} (h : answer.length < 6) : readTag answer = none :=
  if_neg fun ⟨six, _⟩ => absurd six (Nat.ne_of_lt h)

/-! ### The end of an attempt -/

section

variable (s : State)

@[simp] theorem State.updateBay_store (b : Bay) (f : BayRecord → BayRecord) : (s.updateBay b f).store = s.store := rfl

@[simp] theorem State.enterDocked_bay (b c : Bay) :
    (s.enterDocked b).bay c = if c = b then { s.bay b with state := .docked } else s.bay c :=
  s.bay_updateBay b c (fun r => { r with state := .docked })

@[simp] theorem State.enterDocked_store (b : Bay) : (s.enterDocked b).store = s.store := rfl

/-- R117: the tag read of a bay in CALIBRATING ends with its entry to DOCKED. -/
theorem State.endTagRead_calibrating {b : Bay} (h : (s.bay b).state = .calibrating) : s.endTagRead b =
    (s.updateBay b (fun x => { x with tagRead := none, failedDock := none })).enterDocked b := by
  unfold State.endTagRead; dsimp only; rw [h]

/-- R118: an unread attempt before the third begins the next. -/
theorem State.tagAttempt_unread (b : Bay) {n : Nat} (h : n < 3) :
    s.tagAttempt b n none = s.updateBay b (fun r => { r with tagRead := some (n + 1) }) := if_pos h

/-- R117, R118: a read attempt in CALIBRATING sets the bike ID and class, ends the tag read and enters DOCKED. -/
theorem State.tagAttempt_read {b : Bay} (h : (s.bay b).state = .calibrating) (n : Nat) (id : BikeId)
    (cls : BikeClass) : s.tagAttempt b n (some (id, cls)) =
      ((s.updateBay b (fun r => { r with bikeId := some id, bikeClass := some cls })).updateBay b
        (fun x => { x with tagRead := none, failedDock := none })).enterDocked b :=
  State.endTagRead_calibrating _ (by simpa using h)

/-- R117, R118: a read attempt in CALIBRATING leaves its bay DOCKED with the bike, and the other bays as they were. -/
theorem State.tagAttempt_read_bay {b : Bay} (h : (s.bay b).state = .calibrating) (n : Nat) (id : BikeId)
    (cls : BikeClass) (c : Bay) : (s.tagAttempt b n (some (id, cls))).bay c =
      if c = b then
        { s.bay b with
          bikeId := some id, bikeClass := some cls, tagRead := none, failedDock := none, state := .docked }
      else s.bay c := by
  rw [s.tagAttempt_read h]
  by_cases e : c = b
  · simp [e]
  · simp [e]

/-- R117: a read attempt in CALIBRATING hands no record over. -/
theorem State.tagAttempt_read_store {b : Bay} (h : (s.bay b).state = .calibrating) (n : Nat) (id : BikeId)
    (cls : BikeClass) : (s.tagAttempt b n (some (id, cls))).store = s.store := by
  rw [s.tagAttempt_read h]
  simp

end

end Sys2Proof.Machine

namespace Sys2Proof.Safety

open Sys2Proof.Machine

/-- R118: while an attempt is under way its completion is acted on, and the check in CLOSING follows. -/
theorem exec_tagReadAttemptCompletion {s : State} {b : Bay} {n : Nat} (h : (s.bay b).tagRead = some n)
    (answer : List Byte) : exec (.tagReadAttemptCompletion b answer) s =
      .next (s.tagAttempt b n (readTag answer)).closingCheck := by
  change execTagReadAttemptCompletion b answer s = _
  unfold execTagReadAttemptCompletion
  rw [h]

/-- Settles O45: the bytes decide whether the answer is read (`readTag_six`, `readTag_short`); an unread one begins the next
attempt (`State.tagAttempt_unread`), and a read one in CALIBRATING leaves the bay DOCKED (`State.tagAttempt_read_bay`). -/
theorem tagAnswersAreJudgedOnTheirBytes : Obligations.TagAnswersAreJudgedOnTheirBytes := by
  refine ⟨readTag_six, fun _ => readTag_short, fun s b n answer reading early =>
    ⟨fun unread => ?unread, fun id cls read calibrating => ?read⟩⟩
  case unread =>
    rw [exec_tagReadAttemptCompletion reading, unread, s.tagAttempt_unread b early]
    exact ⟨_, rfl, by simp, fun c other => by simp [other], by simp⟩
  case read =>
    have bays := s.tagAttempt_read_bay calibrating n id cls
    rw [exec_tagReadAttemptCompletion reading, read]
    exact ⟨_, rfl, by simp [bays], by simp [bays], by simp [bays], by simp [bays], fun c other => by simp [bays, other],
      by rw [State.closingCheck_store, s.tagAttempt_read_store calibrating]⟩

end Sys2Proof.Safety
end

section
/-! SUPPORT. TableKept: work on the row line leaves the table, the drive, the store and the delay list; the law of the Claim
Table is kept by every command (R19). -/

namespace Sys2Proof.Machine

/-! ### Work on the row line -/

/-- Work on the transmit queues, the Attention Queue, the Claim Engine and the Site Stamp Unit alone. -/
def LineWork (s t : State) : Prop :=
  ∃ rlc aq ce ssu, t = { s with rlc := rlc, aq := aq, ce := ce, ssu := ssu }

theorem LineWork.table {s t : State} (h : LineWork s t) : t.table = s.table := by
  obtain ⟨_, _, _, _, rfl⟩ := h; rfl

theorem LineWork.drive {s t : State} (h : LineWork s t) : t.drive = s.drive := by
  obtain ⟨_, _, _, _, rfl⟩ := h; rfl

theorem LineWork.run {s t : State} (h : LineWork s t) : t.run = s.run := by
  obtain ⟨_, _, _, _, rfl⟩ := h; rfl

theorem LineWork.store {s t : State} (h : LineWork s t) : t.store = s.store := by
  obtain ⟨_, _, _, _, rfl⟩ := h; rfl

section

variable (s : State)

theorem State.setAq_line (x : AttentionQueue) : LineWork s (s.setAq x) := ⟨_, _, _, _, rfl⟩

theorem State.setRlc_line (x : RowLine) : LineWork s (s.setRlc x) := ⟨_, _, _, _, rfl⟩

theorem State.setCe_line (x : ClaimEngine) : LineWork s (s.setCe x) := ⟨_, _, _, _, rfl⟩

theorem State.setSsu_line (x : SiteStamp) : LineWork s (s.setSsu x) := ⟨_, _, _, _, rfl⟩

theorem State.raise_line (src : Source) (code : Code) : LineWork s (s.raise src code) := by
  obtain ⟨_, _, e⟩ := s.raise_sets src code; exact ⟨_, _, _, _, e⟩

theorem State.offerNotice_line : LineWork s s.offerNotice := by
  obtain ⟨_, _, e⟩ := s.offerNotice_sets; exact ⟨_, _, _, _, e⟩

theorem State.noticeSent_line : LineWork s s.noticeSent := by
  obtain ⟨_, _, e⟩ := s.noticeSent_sets; exact ⟨_, _, _, _, e⟩

theorem State.takeOldest_line : LineWork s s.takeOldest := by
  obtain ⟨_, _, e⟩ := s.takeOldest_sets; exact ⟨_, _, _, _, e⟩

theorem State.queueProtocol_line (f : Frame) : LineWork s (s.queueProtocol f) := by
  obtain ⟨_, _, e⟩ := s.queueProtocol_sets f; exact ⟨_, _, _, _, e⟩

theorem State.queueService_line (f : Frame) : LineWork s (s.queueService f) := by
  obtain ⟨_, e⟩ := s.queueService_sets f; exact ⟨_, _, _, _, e⟩

theorem State.removeProtocol_line (p : Frame → Bool) : LineWork s (s.removeProtocol p) := by
  obtain ⟨_, _, e⟩ := s.removeProtocol_sets p; exact ⟨_, _, _, _, e⟩

theorem State.dropAttempt_line (a : Attempt) : LineWork s (s.dropAttempt a) := by
  obtain ⟨_, _, e⟩ := s.dropAttempt_sets a; exact ⟨_, _, _, _, e⟩

theorem State.countVeto_line (a : Attempt) : LineWork s (s.countVeto a) := by
  obtain ⟨_, _, e⟩ := s.countVeto_sets a; exact ⟨_, _, _, _, e⟩

theorem State.decideObject_line (t : TokenId) (c : Addr) (r : ObjectReason) : LineWork s (s.decideObject t c r) := by
  obtain ⟨_, _, _, _, _, e⟩ := s.decideObject_sets t c r; exact ⟨_, _, _, _, e⟩

end

/-- A property that work on the row line keeps meets the conditions of `KeepsWork` when the other blocks' operations keep it
too. -/
theorem KeepsWork.ofLine {P : State → Prop} (line : ∀ s t : State, LineWork s t → P s → P t)
    (same : ∀ s t : State, SameHeld s t → P s → P t)
    (updateEntry : ∀ (s : State) (t : TokenId) (f : Entry → Option Entry),
      (∀ e e', e.token = t → f e = some e' → e'.token = t) → P s → P (s.updateEntry t f))
    (insertEntry : ∀ (s : State) (e : Entry), P s → P (s.insertEntry e))
    (sweep : ∀ (s : State) (x : Stamp), P s → P (s.sweep x))
    (handOver : ∀ (s : State) (held : Bool) (body : RecordBody), P s → P (s.handOver held body))
    (keepStore : ∀ (s : State) (st : RecordStore), st.slots = s.store.slots → st.writer = s.store.writer →
      st.flags.length = s.store.flags.length → st.cursors.length = s.store.cursors.length → P s → P (s.setStore st))
    (setDelays : ∀ (s : State) (d : List DelayRecord), P s → P (s.setDelays d))
    (requestRun : ∀ (s : State) (b : Bay) (run : RunFor), P s → P (s.requestRun b run))
    (withdraw : ∀ (s : State) (b : Bay), P s → P (s.withdraw b)) : KeepsWork P where
  same := same
  raise s src code := line _ _ (s.raise_line src code)
  offerNotice s := line _ _ s.offerNotice_line
  noticeSent s := line _ _ s.noticeSent_line
  clearNoticed s := line _ _ (s.setAq_line _)
  takeOldest s := line _ _ s.takeOldest_line
  hush s _ := line _ _ (s.setAq_line _)
  queueProtocol s f := line _ _ (s.queueProtocol_line f)
  queueService s f := line _ _ (s.queueService_line f)
  removeProtocol s p := line _ _ (s.removeProtocol_line p)
  dropAttempt s a := line _ _ (s.dropAttempt_line a)
  countVeto s a _ _ _ := line _ _ (s.countVeto_line a)
  headLeaves s _ _ _ := line _ _ (s.setRlc_line _)
  unmark s _ := line _ _ (s.setRlc_line _)
  decideObject s t c r := line _ _ (s.decideObject_line t c r)
  forgetObjection s _ _ := line _ _ (s.setCe_line _)
  updateEntry := updateEntry
  insertEntry := insertEntry
  takeStamp s x _ h := sweep _ x (line _ _ (s.setSsu_line _) h)
  advance s _ a _ _ h := by
    have started := line _ _ (s.setSsu_line { s.ssu with second := some Config.secondMs }) h
    unfold State.advance
    dsimp only
    split
    · exact sweep _ _ (line _ _ (State.setSsu_line _ _) started)
    · exact started
  confirm s _ _ _ _ _ := line _ _ (s.setSsu_line _)
  goStale s _ := line _ _ (s.setSsu_line _)
  handOver := handOver
  keepStore := keepStore
  setDelays s d _ := setDelays s d
  requestRun := requestRun
  withdraw := withdraw

end Sys2Proof.Machine

namespace Sys2Proof.Safety

open Sys2Proof.Machine

/-! ### The law of the Claim Table (R19) -/

/-- The table law speaks of the table alone. -/
theorem TableLaw.of_table {s t : State} (e : t.table = s.table) (h : TableLaw s) : TableLaw t := by
  unfold TableLaw; rw [e]; exact h

/-- An empty table meets the law. -/
theorem tableLaw_of_empty {t : State} (e : t.table = List.replicate 256 none) : TableLaw t := by
  unfold TableLaw
  rw [e]
  refine ⟨List.length_replicate, fun i j x y hi _ _ => ?_⟩
  rw [List.getElem?_replicate] at hi
  split at hi <;> cases hi

/-- Places changed or emptied one by one, with no token changed, keep the law. -/
theorem TableLaw.map {s t : State} {g : Option Entry → Option Entry} (hg : ∀ slot e', g slot = some e' →
    ∃ e, slot = some e ∧ e'.token = e.token) (e : t.table = s.table.map g) (h : TableLaw s) : TableLaw t := by
  obtain ⟨size, once⟩ := h
  have origin : ∀ (i : Nat) (x : Entry), t.table[i]? = some (some x) →
      ∃ e, s.table[i]? = some (some e) ∧ x.token = e.token := by
    intro i x hx
    rw [e, List.getElem?_map, Option.map_eq_some_iff] at hx
    obtain ⟨slot, hslot, hgs⟩ := hx
    obtain ⟨y, rfl, hy⟩ := hg slot x hgs
    exact ⟨y, hslot, hy⟩
  refine ⟨by rw [e, List.length_map]; exact size, fun i j x y hi hj hxy => ?_⟩
  obtain ⟨x', hi', hx⟩ := origin i x hi
  obtain ⟨y', hj', hy⟩ := origin j y hj
  exact once i j x' y' hi' hj' (hx ▸ hy ▸ hxy)

/-- An entry placed for a token the table does not hold keeps the law. -/
theorem TableLaw.place {s t : State} {i : Nat} {e : Entry} (hn : s.entry e.token = none)
    (ht : t.table = s.table.set i (some e)) (h : TableLaw s) : TableLaw t := by
  obtain ⟨size, once⟩ := h
  have absent : ∀ (j : Nat) (x : Entry), s.table[j]? = some (some x) → x.token ≠ e.token := by
    intro j x hj hx
    have := (lookupEntry_none_iff e.token s.table).mp hn (some x) (List.mem_of_getElem? hj)
    simp [holdsToken, hx] at this
  refine ⟨by rw [ht, List.length_set]; exact size, fun j k x y hj hk hxy => ?_⟩
  rw [ht, List.getElem?_set] at hj hk
  split at hj <;> split at hk
  · omega
  · rename_i hij _
    split at hj
    · cases hj; exact absurd hxy.symm (absent k y hk)
    · cases hj
  · split at hk
    · cases hk; exact absurd hxy (absent j x hj)
    · cases hk
  · exact once j k x y hj hk hxy

/-- R25, R27: a change of one token's entry keeps the law. -/
theorem TableLaw.updateEntry {s : State} {t : TokenId} {f : Entry → Option Entry}
    (hf : ∀ e e', e.token = t → f e = some e' → e'.token = t) (h : TableLaw s) : TableLaw (s.updateEntry t f) := by
  refine h.map (g := fun slot => slot.bind (fun e => if e.token = t then f e else some e)) ?_ (updateTable_eq t f s.table)
  intro slot e' bound
  obtain ⟨e, rfl, changed⟩ := Option.bind_eq_some_iff.mp bound
  refine ⟨e, rfl, ?_⟩
  split at changed
  · rename_i ht; rw [hf e e' ht changed, ht]
  · cases changed; rfl

/-- R26: the expiry sweep keeps the law. -/
theorem TableLaw.sweep {s : State} (x : Stamp) (h : TableLaw s) : TableLaw (s.sweep x) := by
  refine h.map (fun slot e' he => ?_) rfl
  exact ⟨e', (Option.filter_eq_some_iff.mp he).1, rfl⟩

/-- R19, R22: an insertion keeps the law. -/
theorem TableLaw.insertEntry {s : State} (e : Entry) (h : TableLaw s) : TableLaw (s.insertEntry e) := by
  unfold State.insertEntry
  split
  · exact h
  · rename_i unknown
    have hn : s.entry e.token = none := Option.not_isSome_iff_eq_none.mp unknown
    split
    · exact h.place hn rfl
    · split
      · exact h.place hn (State.raise_line _ _ _).table
      · exact h

/-- Of the operations on the post only those on entries touch the table. -/
theorem TableLaw.keepsWork : KeepsWork TableLaw :=
  KeepsWork.ofLine (line := fun _ _ w => of_table w.table) (same := fun _ _ held => of_table held.table)
    (updateEntry := fun _ _ _ hf => updateEntry hf) (insertEntry := fun _ e => insertEntry e)
    (sweep := fun _ x => sweep x)
    (handOver := fun s held body => of_table (by obtain ⟨_, _, _, e⟩ := s.handOver_sets held body; rw [e]))
    (keepStore := fun _ _ _ _ _ _ => of_table rfl) (setDelays := fun _ _ => of_table rfl)
    (requestRun := fun s b run => of_table (by obtain ⟨_, _, e⟩ := s.requestRun_sets b run; rw [e]))
    (withdraw := fun _ _ => of_table rfl)

theorem TableLaw.keeps : Keeps TableLaw where
  toKeepsWork := keepsWork
  goOn _ _ _ _ _ := of_table rfl
  ends s _ r' result _ _ := keepsWork.completeRun s (fun _ _ => of_table rfl) (fun _ _ => of_table rfl) r' result
  restart s _ := tableLaw_of_empty (by obtain ⟨_, _, e⟩ := s.clearForRestart_sets; rw [e])

/-- A law that the power-on values meet, whatever the pins and the commands that wait, and that `Keeps` carries through the
other commands, is kept by every command. -/
theorem exec_keeps {P : State → Prop} (k : Keeps P) (reset : ∀ (s : State) (a : Addr), P (s.powerOnReset a)) {c : Instr}
    {s t : State} (h : P s) (e : exec c s = .next t) : P t := by
  by_cases hc : isReset c
  · cases c with
    | powerOn a => cases e; exact reset s a
    | resetPin a => cases e; exact reset s a
    | _ => exact hc.elim
  · exact k.exec s c hc t h e

/-- Settles O53: every operation keeps the law (`TableLaw.keeps`), and a reset leaves an empty table. -/
theorem everyCommandKeepsTheTableLaw : Obligations.EveryCommandKeepsTheTableLaw :=
  fun _ _ _ law e => exec_keeps TableLaw.keeps (fun _ _ => tableLaw_of_empty rfl) law e

end Sys2Proof.Safety
end

section
/-! SUPPORT. DriveKept: the law of the drive is kept by every command (R144 to R146). -/

namespace Sys2Proof.Safety

open Sys2Proof.Machine

/-! ### Requests and grants -/

/-- A bay's request waits exactly when the list names the bay. -/
theorem requestWaits_eq_false_iff (s : State) (b : Bay) :
    s.requestWaits b = false ↔ b ∉ s.drive.waiting.map Request.bay := by
  simp [State.requestWaits]

/-- A bay runs exactly when the run in progress is its own. -/
theorem runsAt_iff (s : State) (b : Bay) : s.runsAt b = true ↔ s.run.map Run.bay = some b := by
  unfold State.runsAt
  cases s.run <;> simp

/-- The drive law speaks of the drive and the run alone. -/
theorem DriveLaw.of_drive {s t : State} (ed : t.drive = s.drive) (er : t.run.map Run.bay = s.run.map Run.bay)
    (h : DriveLaw s) : DriveLaw t := by
  obtain ⟨once, held, apart⟩ := h
  refine ⟨by rw [ed]; exact once, by rw [ed, er]; exact held, fun b hb => ?_⟩
  rw [requestWaits_eq_false_iff, ed, ← requestWaits_eq_false_iff]
  exact apart b (by rw [runsAt_iff, ← er, ← runsAt_iff]; exact hb)

/-- A post whose drive is FREE and whose run has ended meets the law, when no bay waits twice. -/
theorem driveLaw_of_free {s : State} (once : (s.drive.waiting.map Request.bay).Nodup) (free : s.drive.holder = none)
    (ended : s.run = none) : DriveLaw s :=
  ⟨once, by rw [free, ended]; rfl, fun b hb => by rw [runsAt_iff, ended] at hb; cases hb⟩

/-- R146: the grant at a FREE drive gives the head of the list the drive and the run. -/
theorem driveLaw_grant {s : State} (once : (s.drive.waiting.map Request.bay).Nodup) (free : s.drive.holder = none)
    (ended : s.run = none) : DriveLaw s.grant := by
  unfold State.grant
  split
  · rename_i r rest _ hw
    rw [hw, List.map_cons, List.nodup_cons] at once
    refine ⟨once.2, rfl, fun b hb => ?_⟩
    rw [runsAt_iff] at hb
    obtain rfl : r.bay = b := Option.some.inj hb
    rw [requestWaits_eq_false_iff]
    exact once.1
  · exact driveLaw_of_free once free ended

/-- A request of a bay with none joins the list with no bay twice. -/
theorem nodup_waiting_concat {s : State} {b : Bay} (run : RunFor) (once : (s.drive.waiting.map Request.bay).Nodup)
    (hw : s.requestWaits b = false) : ((s.drive.waiting ++ [(⟨b, run⟩ : Request)]).map Request.bay).Nodup := by
  rw [List.map_append]
  refine List.nodup_append.mpr ⟨once, List.nodup_cons.mpr ⟨List.not_mem_nil, .nil⟩, fun c hc d hd same => ?_⟩
  have asked : d = b := List.mem_singleton.mp hd
  exact (requestWaits_eq_false_iff s b).mp hw (asked ▸ same ▸ hc)

/-- R146: a drive that is held is granted to no other bay. -/
theorem grant_of_held {s : State} {b : Bay} (held : s.drive.holder = some b) : s.grant = s := by
  unfold State.grant; rw [held]

/-- R145: a request of a bay that has none joins the list, and the next grant follows. -/
theorem requestRun_of_none {s : State} {b : Bay} (run : RunFor) (h : s.wantsDrive b = false) : s.requestRun b run =
    State.grant { s with drive := { s.drive with waiting := s.drive.waiting ++ [⟨b, run⟩] } } :=
  if_neg (by rw [h]; exact Bool.false_ne_true)

/-- R145: a bay with a request waiting or a run running makes no further request. -/
theorem requestRun_of_wants {s : State} {b : Bay} (run : RunFor) (h : s.wantsDrive b = true) : s.requestRun b run = s :=
  if_pos h

/-- R145: while the drive is held, a request of a bay that has none waits at the list's end. -/
theorem requestRun_of_held {s : State} {b c : Bay} (run : RunFor) (h : s.wantsDrive b = false)
    (held : s.drive.holder = some c) : s.requestRun b run =
      { s with drive := { s.drive with waiting := s.drive.waiting ++ [⟨b, run⟩] } } :=
  (requestRun_of_none run h).trans (grant_of_held (b := c) held)

/-- R145: a request keeps the law, granted at once or made to wait. -/
theorem DriveLaw.requestRun {s : State} (b : Bay) (run : RunFor) (h : DriveLaw s) : DriveLaw (s.requestRun b run) := by
  cases wants : s.wantsDrive b with
  | true => rw [requestRun_of_wants run wants]; exact h
  | false =>
    obtain ⟨hw, hr⟩ := (s.wantsDrive_false_iff b).mp wants
    obtain ⟨once, held, apart⟩ := h
    have joined := nodup_waiting_concat run once hw
    cases free : s.drive.holder with
    | none =>
      rw [requestRun_of_none run wants]
      have ended : s.run = none := by rw [free] at held; exact Option.map_eq_none_iff.mp held.symm
      exact driveLaw_grant joined free ended
    | some holder =>
      rw [requestRun_of_held run wants free]
      refine ⟨joined, held, fun c hc => ?_⟩
      have other : c ≠ b := fun e => by
        change s.runsAt c = true at hc
        rw [e, hr] at hc; cases hc
      rw [requestWaits_eq_false_iff]
      simpa [other, requestWaits_eq_false_iff] using apart c hc

/-- A list some of whose requests are withdrawn names no bay twice. -/
theorem nodup_waiting_filter {l : List Request} (p : Request → Bool) (once : (l.map Request.bay).Nodup) :
    ((l.filter p).map Request.bay).Nodup :=
  once.sublist (List.filter_sublist.map _)

/-- R145: a withdrawal keeps the law. -/
theorem DriveLaw.withdraw {s : State} (b : Bay) (h : DriveLaw s) : DriveLaw (s.withdraw b) := by
  obtain ⟨once, held, apart⟩ := h
  refine ⟨nodup_waiting_filter _ once, held, fun c hc => ?_⟩
  have absent := (requestWaits_eq_false_iff s c).mp (apart c hc)
  rw [requestWaits_eq_false_iff]
  exact fun mem => absent ((List.filter_sublist.map _).subset mem)

/-! ### While a run's result is taken -/

/-- R143: the run has ended and its bay still holds the drive; no bay waits twice. -/
def HeldAfterRun (s : State) : Prop :=
  (s.drive.waiting.map Request.bay).Nodup ∧ s.run = none ∧ s.drive.holder.isSome = true

theorem HeldAfterRun.of_drive {s t : State} (ed : t.drive = s.drive) (er : t.run = s.run) (h : HeldAfterRun s) :
    HeldAfterRun t := by
  unfold HeldAfterRun; rw [ed, er]; exact h

theorem HeldAfterRun.requestRun {s : State} (b : Bay) (run : RunFor) (h : HeldAfterRun s) :
    HeldAfterRun (s.requestRun b run) := by
  obtain ⟨once, ended, held⟩ := h
  obtain ⟨holder, hh⟩ := Option.isSome_iff_exists.mp held
  cases hw : s.requestWaits b with
  | true =>
    rw [requestRun_of_wants run (by simp [State.wantsDrive, hw])]
    exact ⟨once, ended, held⟩
  | false =>
    rw [State.requestRun_held ended hh hw]
    exact ⟨nodup_waiting_concat run once hw, ended, held⟩

/-- A property of the drive and the run alone that requests and withdrawals keep meets `KeepsWork`. -/
theorem keepsWork_of_drive {P : State → Prop}
    (of_drive : ∀ s t : State, t.drive = s.drive → t.run = s.run → P s → P t)
    (requestRun : ∀ (s : State) (b : Bay) (run : RunFor), P s → P (s.requestRun b run))
    (withdraw : ∀ (s : State) (b : Bay), P s → P (s.withdraw b)) : KeepsWork P :=
  KeepsWork.ofLine (line := fun _ _ w => of_drive _ _ w.drive w.run)
    (same := fun _ _ held => of_drive _ _ held.drive held.run)
    (updateEntry := fun _ _ _ _ => of_drive _ _ rfl rfl)
    (insertEntry := fun s e => by
      obtain ⟨_, _, _, h⟩ := s.insertEntry_sets e
      exact of_drive _ _ (by rw [h]) (by rw [h]))
    (sweep := fun _ _ => of_drive _ _ rfl rfl)
    (handOver := fun s held body => by
      obtain ⟨_, _, _, h⟩ := s.handOver_sets held body
      exact of_drive _ _ (by rw [h]) (by rw [h]))
    (keepStore := fun _ _ _ _ _ _ => of_drive _ _ rfl rfl) (setDelays := fun _ _ => of_drive _ _ rfl rfl)
    (requestRun := requestRun) (withdraw := withdraw)

theorem HeldAfterRun.keepsWork : KeepsWork HeldAfterRun :=
  keepsWork_of_drive (fun _ _ => of_drive) (fun _ => HeldAfterRun.requestRun)
    (fun _ _ ⟨once, ended, held⟩ => ⟨nodup_waiting_filter _ once, ended, held⟩)

/-! ### The obligation -/

/-- R143, R146: the end of a run keeps the law: its bay holds the drive while the result is taken, and the next grant
follows. -/
theorem DriveLaw.completeRun {s : State} {r : Run} (r' : Run) (result : RunResult) (hr : s.run = some r) (h : DriveLaw s) :
    DriveLaw (s.completeRun r' result) := by
  obtain ⟨once, held, _⟩ := h
  have ended : HeldAfterRun (s.setRun none) := ⟨once, rfl, by rw [State.setRun_drive, held, hr]; rfl⟩
  have k := HeldAfterRun.keepsWork
  obtain ⟨once', ended', _⟩ := k.takeResult _ r'.bay r'.run result (k.takeMeasured _ r' ended)
  exact driveLaw_grant once' rfl ended'

theorem DriveLaw.keeps : Keeps DriveLaw where
  toKeepsWork := keepsWork_of_drive (fun _ _ ed er => of_drive ed (congrArg _ er)) (fun _ => DriveLaw.requestRun)
    (fun _ b => DriveLaw.withdraw b)
  goOn _ _ _ hr hb := of_drive rfl (by rw [hr]; exact congrArg some hb)
  ends _ _ r' result hr _ := completeRun r' result hr
  restart s _ := by
    obtain ⟨_, _, e⟩ := s.clearForRestart_sets
    rw [e]
    exact driveLaw_of_free List.nodup_nil rfl rfl

/-- Settles O56: every operation keeps the law (`DriveLaw.keeps`), and after a reset the drive is FREE with none waiting. -/
theorem everyCommandKeepsTheDriveLaw : Obligations.EveryCommandKeepsTheDriveLaw :=
  fun _ _ _ law e => exec_keeps DriveLaw.keeps (fun _ _ => driveLaw_of_free List.nodup_nil rfl rfl) law e

end Sys2Proof.Safety
end

section
/-! SUPPORT. BoundsKept: the bounds of the transmit queues and their veto counts, of the objection set, the delay list and the
Rental Record Store are kept by every command (R44, R47, R57, R68, R147, R170). -/

namespace Sys2Proof.Safety

open Sys2Proof.Machine

/-! ### The transmit queues -/

/-- The property of a transmit queue survives whatever the post does to it: a frame that joins below the capacity, frames
that leave, a veto counted below the eighth, and the marks of its frames changed. -/
structure QueueRule (cap : Nat) (A : List Queued → Prop) : Prop where
  empty : A []
  joins : ∀ (q : List Queued) (f : Frame) (i : Nat), q.length < cap → A q → A (q.take i ++ ⟨f, 0⟩ :: q.drop i)
  leaves : ∀ q l : List Queued, l.Sublist q → A q → A l
  vetoed : ∀ (q : List Queued) (i : Nat), (∀ x, q[i]? = some x → x.vetoes < 7) → A q →
    A (q.modify i (fun x => { x with vetoes := x.vetoes + 1 }))
  marked : ∀ (q : List Queued) (g : Frame → Frame), A q → A (q.map (fun x => { x with frame := g x.frame }))

/-- R47: the length of a queue stays within its capacity. -/
theorem queueRule_length (cap : Nat) : QueueRule cap (fun q => q.length ≤ cap) where
  empty := Nat.zero_le _
  joins q f i room _ := by
    have size := congrArg List.length (List.take_append_drop i q)
    rw [List.length_append] at size
    simp only [List.length_append, List.length_cons]
    omega
  leaves _ _ sub h := Nat.le_trans sub.length_le h
  vetoed q i _ h := by rw [List.length_modify]; exact h
  marked q g h := by rw [List.length_map]; exact h

/-- R44: no frame of a queue is vetoed more than 7 times. -/
theorem queueRule_vetoes (cap : Nat) : QueueRule cap (fun q => ∀ x ∈ q, x.vetoes ≤ 7) where
  empty := nofun
  joins q f i _ h x hx := by
    rcases List.mem_append.mp hx with hx | hx
    · exact h x (List.mem_of_mem_take hx)
    · rcases List.mem_cons.mp hx with rfl | hx
      · exact Nat.zero_le _
      · exact h x (List.mem_of_mem_drop hx)
  leaves _ _ sub h x hx := h x (sub.subset hx)
  vetoed q i below h x hx := by
    obtain ⟨j, hj⟩ := List.mem_iff_getElem?.mp hx
    rw [List.getElem?_modify, Option.map_eq_map, Option.map_eq_some_iff] at hj
    obtain ⟨y, hy, rfl⟩ := hj
    by_cases e : i = j
    · rw [if_pos e]; exact below y (e ▸ hy)
    · rw [if_neg e]; exact h y (List.mem_of_getElem? hy)
  marked q g h x hx := by
    obtain ⟨y, hy, rfl⟩ := List.mem_map.mp hx
    exact h y hy

/-- A law of the two transmit queues. -/
def QueuesMeet (A B : List Queued → Prop) (s : State) : Prop := A s.rlc.protocol ∧ B s.rlc.service

namespace QueuesMeet

variable {A B : List Queued → Prop}

theorem of_queues {s t : State} (ep : t.rlc.protocol = s.rlc.protocol) (es : t.rlc.service = s.rlc.service)
    (h : QueuesMeet A B s) : QueuesMeet A B t := by
  unfold QueuesMeet; rw [ep, es]; exact h

section

variable {m n : Nat} (a : QueueRule m A) (b : QueueRule n B)

include b in
theorem queueService (hn : 4 ≤ n) {s : State} (f : Frame) (h : QueuesMeet A B s) : QueuesMeet A B (s.queueService f) := by
  unfold State.queueService
  split
  · rename_i room
    have space : s.rlc.service.length < 4 := of_decide_eq_true room
    have joined := b.joins s.rlc.service f s.rlc.service.length (by omega) h.2
    rw [List.take_length, List.drop_length] at joined
    exact ⟨h.1, joined⟩
  · exact h

include a in
theorem queueProtocol (hm : 12 ≤ m) {s : State} (f : Frame) (h : QueuesMeet A B s) : QueuesMeet A B (s.queueProtocol f) := by
  unfold State.queueProtocol
  dsimp only
  split
  · rename_i room
    exact ⟨a.joins _ _ _ (Nat.lt_of_lt_of_le room hm) h.1, h.2⟩
  · exact h

include a in
theorem removeProtocol {s : State} (p : Frame → Bool) (h : QueuesMeet A B s) : QueuesMeet A B (s.removeProtocol p) := by
  have shorter : ∀ i, A (s.rlc.protocol.eraseIdx i) := fun i => a.leaves _ _ (List.eraseIdx_sublist ..) h.1
  unfold State.removeProtocol
  split
  · exact h
  · split
    · exact ⟨shorter _, h.2⟩
    · split
      · exact h
      · exact ⟨shorter _, h.2⟩

include a b in
theorem dropAttempt {s : State} (x : Attempt) (h : QueuesMeet A B s) : QueuesMeet A B (s.dropAttempt x) := by
  unfold State.dropAttempt
  cases x.side with
  | protocol => exact ⟨a.leaves _ _ (List.eraseIdx_sublist ..) h.1, h.2⟩
  | service => exact ⟨h.1, b.leaves _ _ (List.eraseIdx_sublist ..) h.2⟩

include a b in
theorem countVeto {s : State} {x : Attempt} {q : Queued} (hq : s.attemptFrame x = some q) (below : q.vetoes < 7)
    (h : QueuesMeet A B s) : QueuesMeet A B (s.countVeto x) := by
  have lower : ∀ y, (s.side x.side)[x.place]? = some y → y.vetoes < 7 := fun y hy => by
    obtain rfl : q = y := Option.some.inj (hq.symm.trans hy)
    exact below
  unfold State.countVeto
  cases side : x.side with
  | protocol => rw [side] at lower; exact ⟨a.vetoed _ _ lower h.1, h.2⟩
  | service => rw [side] at lower; exact ⟨h.1, b.vetoed _ _ lower h.2⟩

include b in
theorem offerNotice (hn : 4 ≤ n) {s : State} (h : QueuesMeet A B s) : QueuesMeet A B s.offerNotice := by
  unfold State.offerNotice
  split
  · exact h
  · split
    · exact queueService b hn _ h
    · exact h

include b in
theorem raise (hn : 4 ≤ n) {s : State} (src : Source) (code : Code) (h : QueuesMeet A B s) :
    QueuesMeet A B (s.raise src code) := by
  unfold State.raise
  split
  · exact h
  · split
    · exact h
    · split
      · exact h
      · split
        · exact offerNotice b hn (s := s.setEntries _) h
        · exact h

include b in
theorem promote (hn : 4 ≤ n) {s : State} (h : QueuesMeet A B s) : QueuesMeet A B s.promote := by
  unfold State.promote
  split
  · split
    · exact offerNotice b hn (s := (s.setAq _).setEntries _) h
    · exact h
  · exact h

include b in
theorem noticeSent (hn : 4 ≤ n) {s : State} (h : QueuesMeet A B s) : QueuesMeet A B s.noticeSent := by
  unfold State.noticeSent
  split
  · exact offerNotice b hn (promote b hn (s := s.setEntries _) h)
  · exact offerNotice b hn h

include a b in
theorem decideObject (hm : 12 ≤ m) (hn : 4 ≤ n) {s : State} (t : TokenId) (c : Addr) (r : ObjectReason)
    (h : QueuesMeet A B s) : QueuesMeet A B (s.decideObject t c r) := by
  unfold State.decideObject
  split
  · exact h
  · split
    · exact queueProtocol a hm (.object t c r) h
    · exact raise b hn .line .objectionDropped h

include b in
theorem insertEntry (hn : 4 ≤ n) {s : State} (e : Entry) (h : QueuesMeet A B s) : QueuesMeet A B (s.insertEntry e) := by
  unfold State.insertEntry
  split
  · exact h
  · split
    · exact h
    · split
      · exact raise b hn (s := s.setTable _) .table .tablePressure h
      · exact h

include b in
theorem handOver (hn : 4 ≤ n) {s : State} (held : Bool) (body : RecordBody) (h : QueuesMeet A B s) :
    QueuesMeet A B (s.handOver held body) := by
  unfold State.handOver
  split
  · unfold State.pend; split <;> exact h
  · unfold State.writeRecord
    split
    · have filled : QueuesMeet A B (((s.placeRecord held body).fillSegment s.writerSegment).moveWriter) :=
        queueService b hn (s := (s.placeRecord held body).setStore _) _ h
      dsimp only
      split
      · exact raise b hn .store .storeBlocked filled
      · exact filled
    · exact h

include a b in
theorem keepsWork (hm : 12 ≤ m) (hn : 4 ≤ n) : KeepsWork (QueuesMeet A B) where
  same _ _ held := of_queues held.protocol held.service
  raise _ src code := raise b hn src code
  offerNotice _ := offerNotice b hn
  noticeSent _ := noticeSent b hn
  clearNoticed _ := of_queues rfl rfl
  takeOldest s h := offerNotice b hn (promote b hn (s := s.setEntries _) h)
  hush _ _ := of_queues rfl rfl
  queueProtocol _ f := queueProtocol a hm f
  queueService _ f := queueService b hn f
  removeProtocol _ p := removeProtocol a p
  dropAttempt _ x := dropAttempt a b x
  countVeto _ _ _ hq below := countVeto a b hq below
  headLeaves _ q rest hq h := ⟨a.leaves _ _ (hq ▸ List.sublist_cons_self q rest) h.1, h.2⟩
  unmark _ g h := ⟨h.1, b.marked _ (Frame.unmark g) h.2⟩
  decideObject _ t c r := decideObject a b hm hn t c r
  forgetObjection _ _ _ := of_queues rfl rfl
  updateEntry _ _ _ _ := of_queues rfl rfl
  insertEntry _ e := insertEntry b hn e
  takeStamp _ _ _ := of_queues rfl rfl
  advance s _ x _ _ := by unfold State.advance; dsimp only; split <;> exact of_queues rfl rfl
  confirm _ _ _ _ _ _ := of_queues rfl rfl
  goStale _ _ := of_queues rfl rfl
  handOver _ held body := handOver b hn held body
  keepStore _ _ _ _ _ _ := of_queues rfl rfl
  setDelays _ _ _ := of_queues rfl rfl
  requestRun s c run := by obtain ⟨_, _, e⟩ := s.requestRun_sets c run; rw [e]; exact of_queues rfl rfl
  withdraw _ _ := of_queues rfl rfl

include a b in
theorem keeps (hm : 12 ≤ m) (hn : 4 ≤ n) : Keeps (QueuesMeet A B) where
  toKeepsWork := keepsWork a b hm hn
  goOn _ _ _ _ _ := of_queues rfl rfl
  ends s _ r' result _ _ :=
    (keepsWork a b hm hn).completeRun s (fun _ _ => of_queues rfl rfl) (fun _ _ => of_queues rfl rfl) r' result
  restart s _ := by
    obtain ⟨_, _, e⟩ := s.clearForRestart_sets
    rw [e]
    exact ⟨a.empty, b.empty⟩

end

end QueuesMeet

theorem QueueLaw.keeps : Keeps QueueLaw :=
  QueuesMeet.keeps (queueRule_length 12) (queueRule_length 4) (Nat.le_refl _) (Nat.le_refl _)

theorem VetoLaw.keeps : Keeps VetoLaw :=
  QueuesMeet.keeps (queueRule_vetoes 12) (queueRule_vetoes 4) (Nat.le_refl _) (Nat.le_refl _)

/-! ### The objection set and the delay list -/

/-- The law of the objection set and the delay list speaks of these alone. -/
theorem SetLaw.of_sets {s t : State} (eo : t.ce.objections = s.ce.objections) (ed : t.delays = s.delays) (h : SetLaw s) :
    SetLaw t := by
  unfold SetLaw; rw [eo, ed]; exact h

/-- R57, R68: an OBJECT decided on is recorded only while fewer than 5 are. -/
theorem SetLaw.decideObject {s : State} (t : TokenId) (c : Addr) (r : ObjectReason) (h : SetLaw s) :
    SetLaw (s.decideObject t c r) := by
  unfold State.decideObject
  split
  · exact h
  · split
    · rename_i room
      obtain ⟨_, _, e⟩ := s.queueProtocol_sets (.object t c r)
      rw [e]
      refine ⟨?_, h.2⟩
      change (s.ce.objections ++ [_]).length ≤ 5
      rw [List.length_append]
      exact room
    · obtain ⟨_, _, e⟩ := s.raise_sets .line .objectionDropped
      rw [e]
      exact h

theorem SetLaw.keepsWork : KeepsWork SetLaw where
  same _ _ held := of_sets held.objections held.delays
  raise s src code := by obtain ⟨_, _, e⟩ := s.raise_sets src code; rw [e]; exact of_sets rfl rfl
  offerNotice s := by obtain ⟨_, _, e⟩ := s.offerNotice_sets; rw [e]; exact of_sets rfl rfl
  noticeSent s := by obtain ⟨_, _, e⟩ := s.noticeSent_sets; rw [e]; exact of_sets rfl rfl
  clearNoticed _ := of_sets rfl rfl
  takeOldest s := by obtain ⟨_, _, e⟩ := s.takeOldest_sets; rw [e]; exact of_sets rfl rfl
  hush _ _ := of_sets rfl rfl
  queueProtocol s f := by obtain ⟨_, _, e⟩ := s.queueProtocol_sets f; rw [e]; exact of_sets rfl rfl
  queueService s f := by obtain ⟨_, e⟩ := s.queueService_sets f; rw [e]; exact of_sets rfl rfl
  removeProtocol s p := by obtain ⟨_, _, e⟩ := s.removeProtocol_sets p; rw [e]; exact of_sets rfl rfl
  dropAttempt s a := by obtain ⟨_, _, e⟩ := s.dropAttempt_sets a; rw [e]; exact of_sets rfl rfl
  countVeto s a _ _ _ := by obtain ⟨_, _, e⟩ := s.countVeto_sets a; rw [e]; exact of_sets rfl rfl
  headLeaves _ _ _ _ := of_sets rfl rfl
  unmark _ _ := of_sets rfl rfl
  decideObject _ t c r := decideObject t c r
  forgetObjection _ _ _ h := ⟨Nat.le_trans (List.length_filter_le ..) h.1, h.2⟩
  updateEntry _ _ _ _ := of_sets rfl rfl
  insertEntry s x := by obtain ⟨_, _, _, e⟩ := s.insertEntry_sets x; rw [e]; exact of_sets rfl rfl
  takeStamp _ _ _ := of_sets rfl rfl
  advance s _ x _ _ := by unfold State.advance; dsimp only; split <;> exact of_sets rfl rfl
  confirm _ _ _ _ _ _ := of_sets rfl rfl
  goStale _ _ := of_sets rfl rfl
  handOver s held body := by obtain ⟨_, _, _, e⟩ := s.handOver_sets held body; rw [e]; exact of_sets rfl rfl
  keepStore _ _ _ _ _ _ := of_sets rfl rfl
  setDelays _ d hd h := ⟨h.1, hd.elim id (fun shorter => Nat.le_trans shorter h.2)⟩
  requestRun s b run := by obtain ⟨_, _, e⟩ := s.requestRun_sets b run; rw [e]; exact of_sets rfl rfl
  withdraw _ _ := of_sets rfl rfl

theorem SetLaw.keeps : Keeps SetLaw where
  toKeepsWork := keepsWork
  goOn _ _ _ _ _ := of_sets rfl rfl
  ends s _ r' result _ _ := keepsWork.completeRun s (fun _ _ => of_sets rfl rfl) (fun _ _ => of_sets rfl rfl) r' result
  restart s _ := by
    obtain ⟨_, _, e⟩ := s.clearForRestart_sets
    rw [e]
    exact ⟨Nat.zero_le _, Nat.zero_le _⟩

/-! ### The Rental Record Store -/

/-- The store law speaks of the store alone. -/
theorem StoreLaw.of_store {s t : State} (e : t.store = s.store) (h : StoreLaw s) : StoreLaw t := by
  unfold StoreLaw; rw [e]; exact h

/-- R149: a record placed in its slot keeps the law. -/
theorem StoreLaw.placeRecord {s : State} (held : Bool) (body : RecordBody) (h : StoreLaw s) :
    StoreLaw (s.placeRecord held body) := by
  obtain ⟨slots, flags, cursors, writer⟩ := h
  exact ⟨List.length_set.trans slots, flags, cursors, writer⟩

/-- R149: the writer moves from a slot to a slot. -/
theorem StoreLaw.moveWriter {s : State} (h : StoreLaw s) : StoreLaw s.moveWriter := by
  obtain ⟨slots, flags, cursors, _⟩ := h
  exact ⟨slots, flags, cursors, Nat.mod_lt _ (by decide)⟩

/-- R150: a filled segment keeps the law. -/
theorem StoreLaw.fillSegment {s : State} (g : Nat) (h : StoreLaw s) : StoreLaw (s.fillSegment g) := by
  obtain ⟨slots, flags, cursors, writer⟩ := h
  exact of_store (State.queueService_line _ _).store
    ⟨slots, List.length_set.trans flags, List.length_set.trans cursors, writer⟩

/-- R149, R152: a record handed over, written or made to wait, keeps the law. -/
theorem StoreLaw.handOver {s : State} (held : Bool) (body : RecordBody) (h : StoreLaw s) :
    StoreLaw (s.handOver held body) := by
  unfold State.handOver
  split
  · unfold State.pend; split <;> exact h
  · have placed := h.placeRecord held body
    unfold State.writeRecord
    split
    · have filled := (placed.fillSegment s.writerSegment).moveWriter
      dsimp only
      split
      · exact of_store (State.raise_line _ _ _).store filled
      · exact filled
    · exact placed.moveWriter

theorem StoreLaw.keepsWork : KeepsWork StoreLaw :=
  KeepsWork.ofLine (line := fun _ _ w => of_store w.store) (same := fun _ _ held => of_store held.store)
    (updateEntry := fun _ _ _ _ => of_store rfl)
    (insertEntry := fun s x => of_store (by obtain ⟨_, _, _, e⟩ := s.insertEntry_sets x; rw [e]))
    (sweep := fun _ _ => of_store rfl) (handOver := fun _ held body => handOver held body)
    (keepStore := fun _ _ es ew ef ec ⟨slots, flags, cursors, writer⟩ =>
      ⟨es ▸ slots, ef.trans flags, ec.trans cursors, ew ▸ writer⟩)
    (setDelays := fun _ _ => of_store rfl)
    (requestRun := fun s b run => of_store (by obtain ⟨_, _, e⟩ := s.requestRun_sets b run; rw [e]))
    (withdraw := fun _ _ => of_store rfl)

theorem StoreLaw.keeps : Keeps StoreLaw where
  toKeepsWork := keepsWork
  goOn _ _ _ _ _ := of_store rfl
  ends s _ r' result _ _ := keepsWork.completeRun s (fun _ _ => of_store rfl) (fun _ _ => of_store rfl) r' result
  restart s := of_store (by obtain ⟨_, _, e⟩ := s.clearForRestart_sets; rw [e])

/-! ### The obligation -/

theorem queueLaw_powerOn (s : State) (a : Addr) : QueueLaw (s.powerOnReset a) := ⟨Nat.zero_le _, Nat.zero_le _⟩

theorem vetoLaw_powerOn (s : State) (a : Addr) : VetoLaw (s.powerOnReset a) := ⟨nofun, nofun⟩

theorem setLaw_powerOn (s : State) (a : Addr) : SetLaw (s.powerOnReset a) := ⟨Nat.zero_le _, Nat.zero_le _⟩

theorem storeLaw_powerOn (s : State) (a : Addr) : StoreLaw (s.powerOnReset a) :=
  ⟨List.length_replicate, List.length_replicate, List.length_replicate, Nat.zero_lt_succ _⟩

/-- Settles O54: each of the four laws is kept by every operation (`QueuesMeet.keeps`, `SetLaw.keeps`, `StoreLaw.keeps`) and
met after a reset. -/
theorem everyCommandKeepsTheBounds : Obligations.EveryCommandKeepsTheBounds := fun _ _ _ e =>
  ⟨fun law => exec_keeps QueueLaw.keeps queueLaw_powerOn law e,
    fun law => exec_keeps VetoLaw.keeps vetoLaw_powerOn law e,
    fun law => exec_keeps SetLaw.keeps setLaw_powerOn law e,
    fun law => exec_keeps StoreLaw.keeps storeLaw_powerOn law e⟩

end Sys2Proof.Safety
end

section
/-! SUPPORT. AttentionKept: the law of the Attention Queue is kept by every command (R160 to R162). -/

namespace Sys2Proof.Safety

open Sys2Proof.Machine

/-! ### The records of the queue and the waiting set -/

/-- The pair of source and code a record is for. -/
def recordedPair (a : Attention) : Source × Code := (a.source, a.code)

/-- R160, R162: the records of a queue and of a waiting set meet the law. -/
def RecordsMeet (queue waiting : List Attention) : Prop :=
  queue.length ≤ 16 ∧ ((queue ++ waiting).map recordedPair).Nodup ∧ ∀ a ∈ queue ++ waiting, a.count ≤ 255

theorem attentionLaw_iff (s : State) : AttentionLaw s ↔ RecordsMeet (s.aq.queue.map QueuedAttention.att) s.aq.waiting := by
  unfold AttentionLaw RecordsMeet
  refine and_congr (by rw [List.length_map]) (and_congr Iff.rfl ?_)
  simp only [List.mem_append, List.mem_map, or_imp, forall_and, forall_exists_index, and_imp, forall_apply_eq_imp_iff₂]

/-- Records changed with their pairs and the bound of their counts kept. -/
theorem RecordsMeet.map {q w : List Attention} {f g : Attention → Attention} (h : RecordsMeet q w)
    (hf : ∀ a, recordedPair (f a) = recordedPair a ∧ (a.count ≤ 255 → (f a).count ≤ 255))
    (hg : ∀ a, recordedPair (g a) = recordedPair a ∧ (a.count ≤ 255 → (g a).count ≤ 255)) :
    RecordsMeet (q.map f) (w.map g) := by
  obtain ⟨size, once, counts⟩ := h
  have pairs : (q.map f ++ w.map g).map recordedPair = (q ++ w).map recordedPair := by
    rw [List.map_append, List.map_append, List.map_map, List.map_map]
    exact congr (congrArg _ (List.map_congr_left fun a _ => (hf a).1)) (List.map_congr_left fun a _ => (hg a).1)
  refine ⟨by rw [List.length_map]; exact size, by rw [pairs]; exact once, fun a ha => ?_⟩
  rcases List.mem_append.mp ha with ha | ha
  · obtain ⟨x, hx, rfl⟩ := List.mem_map.mp ha
    exact (hf x).2 (counts x (List.mem_append_left _ hx))
  · obtain ⟨x, hx, rfl⟩ := List.mem_map.mp ha
    exact (hg x).2 (counts x (List.mem_append_right _ hx))

/-- Records that have left the queue. -/
theorem RecordsMeet.leave {q q' w : List Attention} (h : RecordsMeet q w) (sub : q'.Sublist q) : RecordsMeet q' w := by
  obtain ⟨size, once, counts⟩ := h
  have subs := sub.append (List.Sublist.refl w)
  exact ⟨Nat.le_trans sub.length_le size, once.sublist (subs.map _), fun a ha => counts a (subs.subset ha)⟩

/-- A record of a new pair that enters the queue with room. -/
theorem RecordsMeet.enter {q w : List Attention} {a : Attention} (h : RecordsMeet q w) (room : q.length < 16)
    (new : recordedPair a ∉ (q ++ w).map recordedPair) (count : a.count ≤ 255) : RecordsMeet (q ++ [a]) w := by
  obtain ⟨_, once, counts⟩ := h
  have perm : (q ++ [a] ++ w).Perm (a :: (q ++ w)) := by
    rw [List.append_assoc]; exact List.perm_middle
  refine ⟨by rw [List.length_append]; exact room, ?_, fun x hx => ?_⟩
  · rw [(perm.map recordedPair).nodup_iff, List.map_cons, List.nodup_cons]
    exact ⟨new, once⟩
  · rcases List.mem_cons.mp (perm.mem_iff.mp hx) with rfl | hx
    · exact count
    · exact counts x hx

/-- A record of a new pair that joins the waiting set. -/
theorem RecordsMeet.wait {q w : List Attention} {a : Attention} (h : RecordsMeet q w)
    (new : recordedPair a ∉ (q ++ w).map recordedPair) (count : a.count ≤ 255) : RecordsMeet q (w ++ [a]) := by
  obtain ⟨size, once, counts⟩ := h
  refine ⟨size, ?_, fun x hx => ?_⟩
  · rw [← List.append_assoc, List.map_append]
    refine List.nodup_append.mpr ⟨once, List.nodup_cons.mpr ⟨List.not_mem_nil, .nil⟩, fun p hp pair ha same => ?_⟩
    have fresh : pair = recordedPair a := List.mem_singleton.mp ha
    exact new (fresh ▸ same ▸ hp)
  · rw [← List.append_assoc, List.mem_append, List.mem_singleton] at hx
    rcases hx with hx | rfl
    · exact counts x hx
    · exact count

/-- R162: a waiting record that enters the queue with room. -/
theorem RecordsMeet.promote {q w : List Attention} {a : Attention} (h : RecordsMeet q w) (room : q.length < 16)
    (ha : a ∈ w) : RecordsMeet (q ++ [a]) (w.filter (fun x => !x.isPair a.source a.code)) := by
  obtain ⟨size, once, counts⟩ := h
  have sub := (List.Sublist.refl q).append (List.filter_sublist (l := w) (p := fun x => !x.isPair a.source a.code))
  refine RecordsMeet.enter ⟨size, once.sublist (sub.map _), fun x hx => counts x (sub.subset hx)⟩ room ?_
    (counts a (List.mem_append_right _ ha))
  intro mem
  obtain ⟨x, hx, same⟩ := List.mem_map.mp mem
  rw [List.map_append] at once
  rcases List.mem_append.mp hx with hx | hx
  · obtain ⟨_, _, apart⟩ := List.nodup_append.mp once
    exact apart _ (List.mem_map_of_mem hx) _ (List.mem_map_of_mem ha) same
  · have other := (List.mem_filter.mp hx).2
    rw [Attention.isPair_iff.mpr same] at other
    cases other

/-! ### The operations -/

/-- The law speaks of the Attention Queue alone. -/
theorem AttentionLaw.of_aq {s t : State} (e : t.aq = s.aq) (h : AttentionLaw s) : AttentionLaw t := by
  rw [attentionLaw_iff] at h ⊢; rw [e]; exact h

/-- R163: an offer changes marks alone. -/
theorem AttentionLaw.offerNotice {s : State} (h : AttentionLaw s) : AttentionLaw s.offerNotice := by
  obtain ⟨hq, hw, _⟩ := s.offerNotice_aq
  rw [attentionLaw_iff] at h ⊢
  rw [hq, hw]
  exact h

/-- R161: a repeat counted keeps its record's pair and bound. -/
theorem again_meets (p : Attention → Bool) (a : Attention) :
    recordedPair (if p a then a.again else a) = recordedPair a ∧
      (a.count ≤ 255 → (if p a then a.again else a).count ≤ 255) := by
  split
  · exact ⟨rfl, fun _ => Nat.min_le_left _ _⟩
  · exact ⟨rfl, id⟩

theorem unchanged_meets (a : Attention) : recordedPair (id a) = recordedPair a ∧ (a.count ≤ 255 → (id a).count ≤ 255) :=
  ⟨rfl, id⟩

/-- Records none of which is for the pair. -/
theorem new_pair {l : List Attention} {src : Source} {code : Code} (h : ¬l.any (fun a => a.isPair src code) = true) :
    (src, code) ∉ l.map recordedPair := by
  intro mem
  obtain ⟨a, ha, same⟩ := List.mem_map.mp mem
  exact h (List.any_eq_true.mpr ⟨a, ha, Attention.isPair_iff.mpr same⟩)

/-- R161: a code raised keeps the law, counted, entered or made to wait. -/
theorem AttentionLaw.raise {s : State} (src : Source) (code : Code) (h : AttentionLaw s) :
    AttentionLaw (s.raise src code) := by
  have meets := (attentionLaw_iff s).mp h
  have one : 1 ≤ 255 := by decide
  unfold State.raise
  split
  · exact h
  split
  · rw [attentionLaw_iff]
    have counted := meets.map (again_meets (fun a => a.isPair src code)) unchanged_meets
    rw [List.map_id, List.map_map] at counted
    simp only [State.setEntries, State.setAq_aq, List.map_map]
    refine Eq.mp (congrArg (fun l => RecordsMeet l _) (List.map_congr_left fun e _ => ?_)) counted
    simp only [Function.comp]
    split <;> rfl
  split
  · rw [attentionLaw_iff]
    have counted := meets.map unchanged_meets (again_meets (fun a => a.isPair src code))
    rw [List.map_id] at counted
    exact counted
  rename_i fresh waiting
  have new : (src, code) ∉ (s.aq.queue.map QueuedAttention.att ++ s.aq.waiting).map recordedPair := by
    rw [List.map_append, List.mem_append]
    exact not_or.mpr ⟨new_pair (by rw [List.any_map]; exact fresh), new_pair waiting⟩
  split
  · rename_i room
    refine AttentionLaw.offerNotice ((attentionLaw_iff _).mpr ?_)
    simp only [State.setEntries, State.setAq_aq, List.map_append]
    exact meets.enter (by rw [List.length_map]; exact room) new one
  · rw [attentionLaw_iff]
    exact meets.wait new one

/-- R162: the promotion of the highest waiting record keeps the law. -/
theorem AttentionLaw.promote {s : State} (h : AttentionLaw s) : AttentionLaw s.promote := by
  have meets := (attentionLaw_iff s).mp h
  unfold State.promote
  split
  · rename_i room
    split
    · rename_i a ha
      obtain ⟨j, hj⟩ := highest_mem ha
      refine AttentionLaw.offerNotice ((attentionLaw_iff _).mpr ?_)
      simp only [State.setEntries, State.setAq_aq, List.map_append]
      exact meets.promote (by rw [List.length_map]; exact room) (List.mem_of_getElem? hj)
    · exact h
  · exact h

/-- Entries that have left the queue. -/
theorem AttentionLaw.setEntries {s : State} {q : List QueuedAttention} (sub : q.Sublist s.aq.queue) (h : AttentionLaw s) :
    AttentionLaw (s.setEntries q) :=
  (attentionLaw_iff _).mpr (((attentionLaw_iff s).mp h).leave (sub.map _))

theorem AttentionLaw.noticeSent {s : State} (h : AttentionLaw s) : AttentionLaw s.noticeSent := by
  unfold State.noticeSent
  split
  · exact (h.setEntries List.filter_sublist).promote.offerNotice
  · exact h.offerNotice

theorem AttentionLaw.clearNoticed {s : State} (h : AttentionLaw s) : AttentionLaw s.clearNoticed := by
  rw [attentionLaw_iff] at h ⊢
  simp only [State.clearNoticed, State.setEntries, State.setAq_aq, List.map_map]
  exact h

/-- R68: an objection that finds no room raises its code. -/
theorem AttentionLaw.decideObject {s : State} (t : TokenId) (c : Addr) (r : ObjectReason) (h : AttentionLaw s) :
    AttentionLaw (s.decideObject t c r) := by
  unfold State.decideObject
  split
  · exact h
  · split
    · obtain ⟨_, _, e⟩ := s.queueProtocol_sets (.object t c r)
      rw [e]
      exact of_aq rfl h
    · exact h.raise .line .objectionDropped

/-- R22: an insertion that evicts raises TABLE PRESSURE. -/
theorem AttentionLaw.insertEntry {s : State} (x : Entry) (h : AttentionLaw s) : AttentionLaw (s.insertEntry x) := by
  unfold State.insertEntry
  split
  · exact h
  · split
    · exact h
    · split
      · exact AttentionLaw.raise (s := s.setTable _) .table .tablePressure h
      · exact h

/-- R151: a record handed over may block the store, which raises its code. -/
theorem AttentionLaw.handOver {s : State} (held : Bool) (body : RecordBody) (h : AttentionLaw s) :
    AttentionLaw (s.handOver held body) := by
  unfold State.handOver
  split
  · unfold State.pend; split <;> exact h
  · unfold State.writeRecord
    split
    · have filled : AttentionLaw (((s.placeRecord held body).fillSegment s.writerSegment).moveWriter) :=
        of_aq (State.queueService_aq _ _) h
      dsimp only
      split
      · exact filled.raise .store .storeBlocked
      · exact filled
    · exact h

theorem AttentionLaw.keepsWork : KeepsWork AttentionLaw where
  same _ _ held := of_aq held.aq
  raise _ src code := raise src code
  offerNotice _ := offerNotice
  noticeSent _ := noticeSent
  clearNoticed _ := clearNoticed
  takeOldest s h := (h.setEntries (List.tail_sublist _)).promote.offerNotice
  hush _ _ h := h
  queueProtocol s f := by obtain ⟨_, _, e⟩ := s.queueProtocol_sets f; rw [e]; exact of_aq rfl
  queueService s f := of_aq (s.queueService_aq f)
  removeProtocol s p := by obtain ⟨_, _, e⟩ := s.removeProtocol_sets p; rw [e]; exact of_aq rfl
  dropAttempt s a := by obtain ⟨_, _, e⟩ := s.dropAttempt_sets a; rw [e]; exact of_aq rfl
  countVeto s a _ _ _ := by obtain ⟨_, _, e⟩ := s.countVeto_sets a; rw [e]; exact of_aq rfl
  headLeaves _ _ _ _ := of_aq rfl
  unmark _ _ := of_aq rfl
  decideObject _ t c r := decideObject t c r
  forgetObjection _ _ _ := of_aq rfl
  updateEntry _ _ _ _ := of_aq rfl
  insertEntry _ x := insertEntry x
  takeStamp _ _ _ := of_aq rfl
  advance s _ x _ _ := by unfold State.advance; dsimp only; split <;> exact of_aq rfl
  confirm _ _ _ _ _ _ := of_aq rfl
  goStale _ _ := of_aq rfl
  handOver _ held body := handOver held body
  keepStore _ _ _ _ _ _ := of_aq rfl
  setDelays _ _ _ := of_aq rfl
  requestRun s b run := by obtain ⟨_, _, e⟩ := s.requestRun_sets b run; rw [e]; exact of_aq rfl
  withdraw _ _ := of_aq rfl

theorem AttentionLaw.keeps : Keeps AttentionLaw where
  toKeepsWork := keepsWork
  goOn _ _ _ _ _ := of_aq rfl
  ends s _ r' result _ _ := keepsWork.completeRun s (fun _ _ => of_aq rfl) (fun _ _ => of_aq rfl) r' result
  restart s h := by
    obtain ⟨_, _, e⟩ := s.clearForRestart_sets
    rw [e]
    exact of_aq (s := s.clearNoticed) rfl h.clearNoticed

/-! ### The obligation -/

theorem attentionLaw_powerOn (s : State) (a : Addr) : AttentionLaw (s.powerOnReset a) :=
  ⟨Nat.zero_le _, List.nodup_nil, nofun, nofun⟩

/-- Settles O55: every operation keeps the law (`AttentionLaw.keeps`), and after a reset nothing is recorded. -/
theorem everyCommandKeepsTheAttentionLaw : Obligations.EveryCommandKeepsTheAttentionLaw :=
  fun _ _ _ law e => exec_keeps AttentionLaw.keeps attentionLaw_powerOn law e

end Sys2Proof.Safety
end

section
/-! SUPPORT. Steady: what happens at bays and claims between the changes of mode leaves the mode, the restart-due flag and the
attempt in flight (R45, R177, R179). -/

namespace Sys2Proof.Machine

/-- The mode and the restart-due flag stay, and an attempt in flight stays in flight. -/
structure Steady (s t : State) : Prop where
  mode : t.mode = s.mode
  restartDue : t.restartDue = s.restartDue
  attempt : s.rlc.attempt.isSome = true → t.rlc.attempt.isSome = true

namespace Steady

theorem refl (s : State) : Steady s s := ⟨rfl, rfl, id⟩

theorem trans {s t u : State} (h : Steady s t) (k : Steady t u) : Steady s u :=
  ⟨k.mode.trans h.mode, k.restartDue.trans h.restartDue, fun a => k.attempt (h.attempt a)⟩

/-- What leaves the attempt as it is. -/
theorem of_eqs {s t : State} (em : t.mode = s.mode) (ed : t.restartDue = s.restartDue)
    (ea : t.rlc.attempt = s.rlc.attempt) : Steady s t := ⟨em, ed, fun h => by rw [ea]; exact h⟩

theorem fold {f : State → Bay → State} (hf : ∀ s b, Steady s (f s b)) (l : List Bay) :
    ∀ s : State, Steady s (l.foldl f s) := by
  induction l with
  | nil => exact refl
  | cons b rest ih => exact fun s => (hf s b).trans (ih _)

end Steady

section

variable (s : State)

/-! ### Single operations -/

theorem State.updateBay_steady (b : Bay) (f : BayRecord → BayRecord) : Steady s (s.updateBay b f) := .of_eqs rfl rfl rfl

theorem State.updateEntry_steady (t : TokenId) (f : Entry → Option Entry) : Steady s (s.updateEntry t f) :=
  .of_eqs rfl rfl rfl

theorem State.withdraw_steady (b : Bay) : Steady s (s.withdraw b) := .of_eqs rfl rfl rfl

theorem State.setTap_steady (x : TapRecord) : Steady s (s.setTap x) := .of_eqs rfl rfl rfl

theorem State.setRun_steady (x : Option Run) : Steady s (s.setRun x) := .of_eqs rfl rfl rfl

theorem State.endTransaction_steady (v : Verdict) : Steady s (s.endTransaction v) := .of_eqs rfl rfl rfl

theorem State.placeLight_steady (b : Bay) (i : Indication) : Steady s (s.placeLight b i) := by
  obtain ⟨_, e⟩ := s.placeLight_sets b i; rw [e]; exact .of_eqs rfl rfl rfl

theorem State.raise_steady (src : Source) (code : Code) : Steady s (s.raise src code) := by
  obtain ⟨_, _, e⟩ := s.raise_sets src code; rw [e]; exact .of_eqs rfl rfl rfl

theorem State.offerNotice_steady : Steady s s.offerNotice := by
  obtain ⟨_, _, e⟩ := s.offerNotice_sets; rw [e]; exact .of_eqs rfl rfl rfl

theorem State.grant_steady : Steady s s.grant := by
  obtain ⟨_, _, e⟩ := s.grant_sets; rw [e]; exact .of_eqs rfl rfl rfl

theorem State.requestRun_steady (b : Bay) (run : RunFor) : Steady s (s.requestRun b run) := by
  obtain ⟨_, _, e⟩ := s.requestRun_sets b run; rw [e]; exact .of_eqs rfl rfl rfl

theorem State.handOver_steady (held : Bool) (body : RecordBody) : Steady s (s.handOver held body) := by
  obtain ⟨_, _, _, e⟩ := s.handOver_sets held body; rw [e]; exact .of_eqs rfl rfl rfl

theorem State.insertEntry_steady (x : Entry) : Steady s (s.insertEntry x) := by
  obtain ⟨_, _, _, e⟩ := s.insertEntry_sets x; rw [e]; exact .of_eqs rfl rfl rfl

/-- R46: a frame that joins the queue moves the place of an attempt and does not end it. -/
theorem State.queueProtocol_steady (f : Frame) : Steady s (s.queueProtocol f) := by
  unfold State.queueProtocol
  dsimp only
  split
  · exact ⟨rfl, rfl, fun h => Option.isSome_map.trans h⟩
  · exact .refl s

/-- R45: a frame removed while it is being sent leaves at the attempt's end. -/
theorem State.removeProtocol_steady (p : Frame → Bool) : Steady s (s.removeProtocol p) := by
  unfold State.removeProtocol
  split
  · exact .refl s
  · split
    · exact .of_eqs rfl rfl rfl
    · split <;> exact ⟨rfl, rfl, fun _ => rfl⟩

/-! ### Bays -/

theorem State.tryDock_steady (b : Bay) : Steady s (s.tryDock b) := by
  obtain ⟨_, _, _, e⟩ := s.tryDock_sets b; rw [e]; exact .of_eqs rfl rfl rfl

theorem State.enterEmpty_steady (b : Bay) : Steady s (s.enterEmpty b) := by
  obtain ⟨_, _, _, e⟩ := s.enterEmpty_sets b; rw [e]; exact .of_eqs rfl rfl rfl

theorem State.calibrate_steady (b : Bay) : Steady s (s.calibrate b) := by
  obtain ⟨_, _, _, e⟩ := s.calibrate_sets b; rw [e]; exact .of_eqs rfl rfl rfl

theorem State.faultBay_steady (b : Bay) (code : FaultCode) (raised : Bool) : Steady s (s.faultBay b code raised) := by
  obtain ⟨_, _, _, e⟩ := s.faultBay_sets b code raised; rw [e]; exact .of_eqs rfl rfl rfl

theorem State.loseBay_steady (b : Bay) (code : FaultCode) : Steady s (s.loseBay b code) := by
  obtain ⟨_, _, _, _, e⟩ := s.loseBay_sets b code; rw [e]; exact .of_eqs rfl rfl rfl

theorem State.failDocking_steady (b : Bay) (code : FaultCode) : Steady s (s.failDocking b code) := by
  obtain ⟨_, _, _, _, _, _, e⟩ := s.failDocking_sets b code; rw [e]; exact .of_eqs rfl rfl rfl

theorem State.tagAttempt_steady (b : Bay) (n : Nat) (answer : Option (BikeId × BikeClass)) :
    Steady s (s.tagAttempt b n answer) := by
  obtain ⟨_, _, _, _, _, _, e⟩ := s.tagAttempt_sets b n answer; rw [e]; exact .of_eqs rfl rfl rfl

theorem State.startRental_steady (b : Bay) (late : Bool) : Steady s (s.startRental b late) := by
  obtain ⟨_, _, _, _, _, e⟩ := s.startRental_sets b late; rw [e]; exact .of_eqs rfl rfl rfl

theorem State.withdrawal_steady (b : Bay) : Steady s (s.withdrawal b) := by
  obtain ⟨_, _, _, _, _, _, _, _, e⟩ := s.withdrawal_sets b; rw [e]; exact .of_eqs rfl rfl rfl

theorem State.beginRelatch_steady (b : Bay) (cause : RelatchCause) : Steady s (s.beginRelatch b cause) := by
  obtain ⟨_, _, _, e⟩ := s.beginRelatch_sets b cause; rw [e]; exact .of_eqs rfl rfl rfl

/-! ### Claims -/

theorem State.lapseClaim_steady (t : TokenId) (reason : LapseReason) : Steady s (s.lapseClaim t reason) :=
  (s.updateEntry_steady t _).trans (State.queueProtocol_steady _ _)

theorem State.lapseBay_steady (b : Bay) : Steady s (s.lapseBay b) := by
  unfold State.lapseBay
  split
  · exact ((s.handOver_steady _ _).trans (State.lapseClaim_steady _ _ _)).trans (State.updateBay_steady _ _ _)
  · exact .refl s

theorem State.claimOver_steady (v : Verdict) : Steady s (s.claimOver v) := by
  obtain ⟨_, _, e⟩ := s.claimOver_sets v; rw [e]; exact .of_eqs rfl rfl rfl

theorem State.handClaim_steady (t : Token) (i : Nat) (b : Bay) : Steady s (s.handClaim t i b) := by
  obtain ⟨_, _, _, e⟩ := s.handClaim_sets t i b; rw [e]; exact .of_eqs rfl rfl rfl

theorem State.exhaust_steady (t : Token) : Steady s (s.exhaust t) :=
  ((s.lapseClaim_steady _ _).trans (State.handOver_steady _ _ _)).trans (State.endTransaction_steady _ _)

theorem State.walk_steady (t : Token) (l : List Bay) : ∀ i : Nat, Steady s (s.walk t i l) := by
  induction l with
  | nil => exact fun _ => s.exhaust_steady t
  | cons b rest ih =>
    intro i
    rw [State.walk]
    split
    · exact s.handClaim_steady t i b
    · exact ih (i + 1)

theorem State.handFirst_steady (t : Token) : Steady s (s.handFirst t) := by
  unfold State.handFirst
  split
  · split
    · exact s.handClaim_steady _ _ _
    · exact s.walk_steady _ _ _
  · exact s.walk_steady _ _ _

theorem State.settled_steady (timer : SettleTimer) : Steady s (s.settled timer) := by
  have held (f : Entry → Option Entry) (x : ClaimEngine) : Steady s ((s.updateEntry timer.token f).setCe x) :=
    .of_eqs rfl rfl rfl
  unfold State.settled
  dsimp only
  split
  · split
    · exact (held _ _).trans (State.handFirst_steady _ _)
    · exact held _ _
  · exact held _ _

theorem State.enterOpen_steady (b : Bay) : Steady s (s.enterOpen b) := by
  obtain ⟨_, _, _, _, _, _, _, _, _, e⟩ := s.enterOpen_sets b; rw [e]; exact .of_eqs rfl rfl rfl

theorem State.failRelease_steady (b : Bay) (r : RunResult) : Steady s (s.failRelease b r) := by
  have lost := s.faultBay_steady b (releaseFault (s.input b).presence r)
    (releaseFault (s.input b).presence r == .driverFault)
  unfold State.failRelease
  dsimp only
  split
  · split
    · exact lost.trans (State.walk_steady _ _ _ _)
    · exact lost
  · exact lost

/-- R59, R102: a claim that starts or is refused. -/
theorem State.startClaim_steady (t : Token) (b : Bay) : Steady s (s.startClaim t b) := by
  unfold State.startClaim
  split
  · exact ((s.insertEntry_steady _).trans (State.queueProtocol_steady _ _)).trans (State.setTap_steady _ _)
  · exact s.claimOver_steady _

/-- R101: selection. -/
theorem State.select_steady (t : Token) : Steady s (s.select t) := by
  have chosen (x : TapRecord) (b : Bay) : Steady s ((s.setTap x).reserve b) := .of_eqs rfl rfl rfl
  unfold State.select
  split
  · exact s.endTransaction_steady _
  · exact (chosen _ _).trans (State.startClaim_steady _ _ _)

/-- R9, R99: the result of a token check. -/
theorem State.checkDone_steady (t : Token) : Steady s (s.checkDone t) := by
  unfold State.checkDone
  split
  · split
    · unfold State.lookUp
      split
      · split <;> exact s.endTransaction_steady _
      · exact s.select_steady t
    · exact s.endTransaction_steady _
  · exact .refl s

/-! ### Runs -/

theorem State.calibrationEnd_steady (b : Bay) (run : RunFor) (r : RunResult) : Steady s (s.calibrationEnd b run r) := by
  unfold State.calibrationEnd
  split
  · exact .refl s
  · split
    · exact s.enterEmpty_steady b
    · unfold State.homed
      split
      · split
        · exact s.updateBay_steady b _
        · exact s.faultBay_steady _ _ _
      · exact s.requestRun_steady _ _
  · split <;> exact s.faultBay_steady _ _ _

theorem State.dockingEnd_steady (b : Bay) (r : RunResult) : Steady s (s.dockingEnd b r) := by
  unfold State.dockingEnd
  dsimp only
  split
  · exact .refl s
  · split
    · exact s.updateBay_steady b _
    · exact s.calibrate_steady b
  · split
    · exact (s.updateBay_steady b _).trans (State.updateBay_steady _ _ _)
    · exact s.failDocking_steady _ _

theorem State.relatchEnd_steady (b : Bay) (r : RunResult) : Steady s (s.relatchEnd b r) := by
  unfold State.relatchEnd
  split
  · exact .refl s
  · exact (s.lapseBay_steady b).trans (State.updateBay_steady _ _ _)
  · exact (s.lapseBay_steady b).trans (State.faultBay_steady _ _ _ _)

theorem State.serviceEnd_steady (b : Bay) (run : RunFor) (r : RunResult) : Steady s (s.serviceEnd b run r) := by
  unfold State.serviceEnd
  split
  · exact .refl s
  · split
    · split
      · exact s.updateBay_steady b _
      · exact s.calibrate_steady b
    · exact .refl s
  · exact s.faultBay_steady _ _ _

/-- R114, R143: whatever the bay's answer to a run's result. -/
theorem State.takeResult_steady (b : Bay) (run : RunFor) (r : RunResult) : Steady s (s.takeResult b run r) := by
  unfold State.takeResult
  split
  · exact (s.updateBay_steady b _).trans (State.requestRun_steady _ _ _)
  · exact (s.updateBay_steady b _).trans (State.requestRun_steady _ _ _)
  · split
    · exact s.calibrationEnd_steady b run r
    · exact s.dockingEnd_steady b r
    · unfold State.patrolEnd
      split
      · split
        · exact .refl s
        · exact .refl s
        · exact s.faultBay_steady _ _ _
      · exact .refl s
    · unfold State.releaseEnd
      split
      · exact .refl s
      · exact s.enterOpen_steady b
      · exact s.failRelease_steady b r
    · exact s.relatchEnd_steady b r
    · unfold State.reopeningEnd
      split
      · exact .refl s
      · exact s.enterEmpty_steady b
      · exact s.faultBay_steady _ _ _
    · exact s.serviceEnd_steady b run r
    all_goals exact .refl s

theorem State.completeRun_steady (r : Run) (result : RunResult) : Steady s (s.completeRun r result) := by
  have measured : Steady s ((s.setRun none).takeMeasured r) := by
    unfold State.takeMeasured
    split <;> exact .of_eqs rfl rfl rfl
  have answered := measured.trans (State.takeResult_steady _ r.bay r.run result)
  have freed := answered.trans (.of_eqs (t := State.freeDrive _) rfl rfl rfl)
  exact freed.trans (State.grant_steady _)

theorem State.driverFails_steady (r : Run) : Steady s (s.driverFails r) :=
  (s.raise_steady _ _).trans (State.completeRun_steady _ _ _)

theorem State.progress_steady (p : Progress) : Steady s (s.progress p) := by
  cases p with
  | going r => exact s.setRun_steady _
  | ended r result => exact s.completeRun_steady r result

theorem State.pulseEnd_steady (r : Run) : Steady s (s.pulseEnd r) := by
  unfold State.pulseEnd
  split
  · exact s.driverFails_steady r
  · split
    · exact s.completeRun_steady _ _
    · exact s.progress_steady _

theorem State.stepBoundary_steady (r : Run) (st : Step) : Steady s (s.stepBoundary r st) := by
  unfold State.stepBoundary
  split
  · exact s.driverFails_steady _
  · exact s.progress_steady _

theorem State.requestStop_steady (b : Bay) : Steady s (s.requestStop b) := by
  unfold State.requestStop
  split
  · split
    · dsimp only
      split
      · split
        · exact s.driverFails_steady _
        · exact s.completeRun_steady _ _
      · exact s.setRun_steady _
    · exact .refl s
  · exact .refl s

/-! ### Sensor changes -/

theorem State.forceBay_steady (b : Bay) : Steady s (s.forceBay b) :=
  (s.loseBay_steady b _).trans (State.requestStop_steady _ b)

theorem State.lateWithdrawal_steady (b : Bay) : Steady s (s.lateWithdrawal b) := by
  have taken (f : BayRecord → BayRecord) : Steady s ((s.startRental b true).updateBay b f) :=
    (s.startRental_steady b true).trans (State.updateBay_steady _ _ _)
  unfold State.lateWithdrawal
  dsimp only
  split
  · exact ((taken _).trans (State.updateBay_steady _ _ _)).trans (State.requestStop_steady _ _)
  · exact ((taken _).trans (State.withdraw_steady _ _)).trans (State.enterEmpty_steady _ _)

theorem State.presenceFell_steady (b : Bay) : Steady s (s.presenceFell b) := by
  unfold State.presenceFell
  split
  · exact s.forceBay_steady b
  · split
    · exact s.forceBay_steady b
    · exact s.forceBay_steady b
    · exact s.withdrawal_steady b
    · exact s.lateWithdrawal_steady b
    all_goals exact .refl s

theorem State.undock_steady (b : Bay) : Steady s (s.undock b) := by
  unfold State.undock
  split
  · exact (s.calibrate_steady b).trans (State.requestStop_steady _ _)
  · split
    · exact (s.withdraw_steady b).trans (State.enterEmpty_steady _ _)
    · exact .refl s

theorem State.seatFell_steady (b : Bay) : Steady s (s.seatFell b) := by
  unfold State.seatFell
  split
  · exact s.forceBay_steady b
  · split
    · exact s.forceBay_steady b
    · exact s.forceBay_steady b
    · exact s.undock_steady b
    all_goals exact .refl s

theorem State.latchLost_steady (b : Bay) (code : FaultCode) : Steady s (s.latchLost b code) := by
  unfold State.latchLost
  split
  · exact .refl s
  · split
    · exact s.loseBay_steady b code
    · exact s.loseBay_steady b code
    all_goals exact .refl s

/-! ### Row actions at a bay -/

theorem State.clearFault_steady (b : Bay) : Steady s (s.clearFault b) := by
  unfold State.clearFault
  split
  · exact ((s.updateBay_steady b _).trans (State.placeLight_steady _ _ _)).trans (State.calibrate_steady _ b)
  · exact .refl s

theorem State.openService_steady (b : Bay) : Steady s (s.openService b) := by
  unfold State.openService
  split
  · exact ((s.withdraw_steady b).trans (State.updateBay_steady _ _ _)).trans (State.requestRun_steady _ _ _)
  · exact .refl s

theorem State.closeService_steady (b : Bay) : Steady s (s.closeService b) := by
  unfold State.closeService
  split
  · split
    · exact s.requestRun_steady _ _
    · exact (s.updateBay_steady b _).trans (State.enterEmpty_steady _ _)
  · exact .refl s

theorem State.relatchOpen_steady (b : Bay) : Steady s (s.relatchOpen b) := by
  unfold State.relatchOpen
  split
  · exact s.beginRelatch_steady b _
  · exact .refl s

theorem State.patrolBay_steady (b : Bay) : Steady s (s.patrolBay b) := by
  unfold State.patrolBay
  split
  · exact s.requestRun_steady _ _
  · exact .refl s

end

end Sys2Proof.Machine
end

section
/-! SUPPORT. ModesKept: the post mode changes by the rows of its table, a due restart waits in MAINTENANCE, and CLOSING ends
when all bays are idle (R177 to R179). -/

namespace Sys2Proof.Machine

/-! ### Events that leave the modes' conditions -/

/-- The mode, the restart-due flag, the image and the bays stay, and a transaction under way stays under way. -/
structure Calm (s t : State) : Prop where
  mode : t.mode = s.mode
  restartDue : t.restartDue = s.restartDue
  image : t.image = s.image
  bays : t.bays = s.bays
  phase : s.tap.phase ≠ .idle → t.tap.phase ≠ .idle

namespace Calm

theorem refl (s : State) : Calm s s := ⟨rfl, rfl, rfl, rfl, id⟩

theorem trans {s t u : State} (h : Calm s t) (k : Calm t u) : Calm s u :=
  ⟨k.mode.trans h.mode, k.restartDue.trans h.restartDue, k.image.trans h.image, k.bays.trans h.bays,
    fun a => k.phase (h.phase a)⟩

end Calm

section

variable (s : State)

theorem State.setRlc_calm (x : RowLine) : Calm s (s.setRlc x) := ⟨rfl, rfl, rfl, rfl, id⟩

theorem State.setAq_calm (x : AttentionQueue) : Calm s (s.setAq x) := ⟨rfl, rfl, rfl, rfl, id⟩

theorem State.setJu_calm (x : JoinUnit) : Calm s (s.setJu x) := ⟨rfl, rfl, rfl, rfl, id⟩

theorem State.setCe_calm (x : ClaimEngine) : Calm s (s.setCe x) := ⟨rfl, rfl, rfl, rfl, id⟩

theorem State.setSsu_calm (x : SiteStamp) : Calm s (s.setSsu x) := ⟨rfl, rfl, rfl, rfl, id⟩

theorem State.setTable_calm (x : List (Option Entry)) : Calm s (s.setTable x) := ⟨rfl, rfl, rfl, rfl, id⟩

theorem State.setLink_calm (x : TapLink) : Calm s (s.setLink x) := ⟨rfl, rfl, rfl, rfl, id⟩

theorem State.endTransaction_calm (v : Verdict) : Calm s (s.endTransaction v) := ⟨rfl, rfl, rfl, rfl, fun _ => nofun⟩

theorem State.raise_calm (src : Source) (code : Code) : Calm s (s.raise src code) := by
  obtain ⟨_, _, e⟩ := s.raise_sets src code; rw [e]; exact ⟨rfl, rfl, rfl, rfl, id⟩

theorem State.offerNotice_calm : Calm s s.offerNotice := by
  obtain ⟨_, _, e⟩ := s.offerNotice_sets; rw [e]; exact ⟨rfl, rfl, rfl, rfl, id⟩

theorem State.noticeSent_calm : Calm s s.noticeSent := by
  obtain ⟨_, _, e⟩ := s.noticeSent_sets; rw [e]; exact ⟨rfl, rfl, rfl, rfl, id⟩

theorem State.takeOldest_calm : Calm s s.takeOldest := by
  obtain ⟨_, _, e⟩ := s.takeOldest_sets; rw [e]; exact ⟨rfl, rfl, rfl, rfl, id⟩

theorem State.queueProtocol_calm (f : Frame) : Calm s (s.queueProtocol f) := by
  obtain ⟨_, _, e⟩ := s.queueProtocol_sets f; rw [e]; exact ⟨rfl, rfl, rfl, rfl, id⟩

theorem State.queueService_calm (f : Frame) : Calm s (s.queueService f) := by
  obtain ⟨_, e⟩ := s.queueService_sets f; rw [e]; exact ⟨rfl, rfl, rfl, rfl, id⟩

theorem State.dropAttempt_calm (a : Attempt) : Calm s (s.dropAttempt a) := by
  obtain ⟨_, _, e⟩ := s.dropAttempt_sets a; rw [e]; exact ⟨rfl, rfl, rfl, rfl, id⟩

theorem State.countVeto_calm (a : Attempt) : Calm s (s.countVeto a) := by
  obtain ⟨_, _, e⟩ := s.countVeto_sets a; rw [e]; exact ⟨rfl, rfl, rfl, rfl, id⟩

theorem State.requestRun_calm (b : Bay) (run : RunFor) : Calm s (s.requestRun b run) := by
  obtain ⟨_, _, e⟩ := s.requestRun_sets b run; rw [e]; exact ⟨rfl, rfl, rfl, rfl, id⟩

theorem State.answerSecond_calm (v : Verdict) : Calm s (s.answerSecond v) := by
  obtain ⟨_, e⟩ := s.answerSecond_sets v; rw [e]; exact ⟨rfl, rfl, rfl, rfl, id⟩

theorem mergeAll_calm (l : List DumpEntry) : Calm s (l.foldl (fun x e => x.merge e) s) := by
  obtain ⟨_, _, _, e⟩ := State.mergeAll_sets l s; rw [e]; exact ⟨rfl, rfl, rfl, rfl, id⟩

theorem State.beginDump_calm : Calm s s.beginDump := (s.setJu_calm _).trans (State.queueProtocol_calm _ _)

theorem State.endDump_calm : Calm s s.endDump := by
  unfold State.endDump
  split
  · exact s.beginDump_calm
  · exact s.setJu_calm _

/-- R62: the transaction that holds the claim goes on to SETTLING. -/
theorem State.claimEchoed_calm (t : TokenId) : Calm s (s.claimEchoed t) := by
  unfold State.claimEchoed
  dsimp only
  split
  · exact ⟨rfl, rfl, rfl, rfl, fun _ => nofun⟩
  · exact ⟨rfl, rfl, rfl, rfl, id⟩

theorem State.stopCollecting_calm : Calm s s.stopCollecting := ⟨rfl, rfl, rfl, rfl, id⟩

/-- R94: an unreadable PRESENT ends its transaction or is answered. -/
theorem State.unreadable_calm : Calm s s.unreadable := by
  unfold State.unreadable
  split
  · exact s.stopCollecting_calm.trans (State.endTransaction_calm _ _)
  · exact s.stopCollecting_calm.trans (State.answerSecond_calm _ _)
  · exact .refl s

/-- R96, R97: the intake tests end the transaction or take it to CHECKING. -/
theorem State.intake_calm (t : Token) : Calm s (s.intake t) := by
  unfold State.intake
  split
  · exact s.endTransaction_calm _
  · split
    · exact s.endTransaction_calm _
    · exact ⟨rfl, rfl, rfl, rfl, fun _ => nofun⟩

theorem State.arrived_calm (bytes : List Byte) : Calm s (s.arrived bytes) := by
  unfold State.arrived
  split
  · exact s.unreadable_calm
  · split
    · exact s.stopCollecting_calm.trans (State.intake_calm _ _)
    · split
      · exact s.stopCollecting_calm
      · exact s.stopCollecting_calm.trans (State.answerSecond_calm _ _)
    · exact .refl s

/-- R43: the choices of a send start touch the transmit queues and the attempt alone. -/
theorem State.offer_calm (n : Nat) : ∀ s : State, Calm s (State.offer n s) := by
  induction n with
  | zero => exact .refl
  | succ n ih =>
    intro s
    rw [State.offer]
    split
    · exact .refl s
    · exact s.setRlc_calm _
    · rename_i x hx
      obtain ⟨_, _, _, e | e⟩ := s.choose_again x hx
      · exact (e ▸ s.setRlc_calm _ : Calm s x).trans (ih x)
      · exact (e ▸ (s.setRlc_calm _).trans (State.queueProtocol_calm _ _) : Calm s x).trans (ih x)

theorem State.patrolBay_calm (b : Bay) : Calm s (s.patrolBay b) := by
  unfold State.patrolBay
  split
  · exact s.requestRun_calm _ _
  · exact .refl s

theorem patrolAll_calm (l : List Bay) : ∀ s : State, Calm s (l.foldl (fun x b => x.patrolBay b) s) := by
  induction l with
  | nil => exact .refl
  | cons b rest ih =>
    intro s
    exact (s.patrolBay_calm b).trans (ih _)

theorem State.takeJoin_calm : Calm s s.takeJoin := by
  unfold State.takeJoin
  split
  · split
    · dsimp only
      split
      · exact s.beginDump_calm
      · exact s.setJu_calm _
    · exact .refl s
    · exact s.setJu_calm _
  · exact .refl s

theorem State.takeOpening_calm : Calm s s.takeOpening := by
  unfold State.takeOpening
  split
  · exact s.setJu_calm _
  · exact s.setJu_calm _
  · exact .refl s

theorem State.takeDump_calm (d : Addr) (seq : Nat) (l : List DumpEntry) : Calm s (s.takeDump d seq l) := by
  unfold State.takeDump
  split
  · exact (mergeAll_calm s l).trans (State.setJu_calm _ _)
  · split
    · exact s.takeOpening_calm
    · exact .refl s

theorem State.takeStamp_calm (x : Stamp) : Calm s (s.takeStamp x) := ⟨rfl, rfl, rfl, rfl, id⟩

theorem State.takeDumperStamp_calm (x : Option Stamp) : Calm s (s.takeDumperStamp x) := by
  unfold State.takeDumperStamp
  split
  · split
    · exact s.takeStamp_calm _
    · exact .refl s
  · exact .refl s

theorem State.takeBeacon_calm (x : Stamp) : Calm s (s.takeBeacon x) := by
  unfold State.takeBeacon
  split
  · exact s.takeStamp_calm x
  · exact s.takeStamp_calm x
  · split
    · exact s.takeStamp_calm x
    · split
      · exact s.setSsu_calm _
      · exact (s.setSsu_calm _).trans (State.raise_calm _ _ _)

theorem State.advance_calm (x : Stamp) : Calm s (s.advance x) := by
  unfold State.advance
  dsimp only
  split <;> exact ⟨rfl, rfl, rfl, rfl, id⟩

/-! ### The attempt while frames are heard -/

/-- A calm event that does not touch an attempt in flight is steady. -/
theorem Calm.steady {s t : State} (h : Calm s t) (attempt : s.rlc.attempt.isSome = true → t.rlc.attempt.isSome = true) :
    Steady s t := ⟨h.mode, h.restartDue, attempt⟩

end

end Sys2Proof.Machine

namespace Sys2Proof.Safety

open Sys2Proof.Machine

/-! ### The rows of the mode table -/

theorem ModeStep.refl (m : PostMode) : ModeStep m m := .inl rfl

/-- R178: after a change to CLOSING the change to MAINTENANCE may follow in the same event. -/
theorem ModeStep.closed {m : PostMode} (h : ModeStep m .closing) : ModeStep m .maintenance := by
  revert h; cases m <;> simp [ModeStep]

/-- The mode has changed by the table and a restart that is due still waits as it should. -/
def KeepsModes (s t : State) : Prop := RestartLaw s → RestartLaw t ∧ ModeStep s.mode t.mode

/-- What every command but a reset keeps of the modes. -/
def ModesKept (s t : State) : Prop := KeepsModes s t ∧ (ClosingLaw s → ClosingLaw t)

theorem RestartLaw.of_steady {s t : State} (h : Steady s t) (law : RestartLaw s) : RestartLaw t := by
  intro due
  obtain ⟨maintenance, inFlight⟩ := law (h.restartDue ▸ due)
  exact ⟨h.mode.trans maintenance, h.attempt inFlight⟩

theorem keepsModes_of_steady {s t : State} (h : Steady s t) : KeepsModes s t :=
  fun law => ⟨law.of_steady h, h.mode ▸ .refl _⟩

/-- With no restart due the mode alone counts. -/
theorem keepsModes_of_undue {s t : State} (h : RestartLaw s → t.restartDue = false ∧ ModeStep s.mode t.mode) :
    KeepsModes s t :=
  fun law => ⟨fun due => absurd ((h law).1.symm.trans due) nofun, (h law).2⟩

/-- R178: the check at the end of an event keeps the modes. -/
theorem KeepsModes.closingCheck {s t : State} (h : KeepsModes s t) : KeepsModes s t.closingCheck := by
  intro law
  obtain ⟨waits, changed⟩ := h law
  unfold State.closingCheck
  split
  · rename_i idle
    refine ⟨fun due => ?_, (idle.1 ▸ changed).closed⟩
    have stays := (waits due).1
    rw [idle.1] at stays
    cases stays
  · exact ⟨waits, changed⟩

/-- An event that ends with the check in CLOSING keeps the modes. -/
theorem modesKept_of_check {s t : State} (h : KeepsModes s t) : ModesKept s t.closingCheck :=
  ⟨h.closingCheck, fun _ => t.closingCheck_law⟩

theorem modesKept_of_steady_check {s t : State} (h : Steady s t) : ModesKept s t.closingCheck :=
  modesKept_of_check (keepsModes_of_steady h)

theorem ClosingLaw.of_calm {s t : State} (h : Calm s t) (law : ClosingLaw s) : ClosingLaw t := by
  intro closing
  rcases law (h.mode ▸ closing) with busy | ⟨b, hb, busy⟩
  · exact .inl (h.phase busy)
  · refine .inr ⟨b, ?_, ?_⟩
    · unfold State.cfg; rw [h.image]; exact hb
    · rw [State.bay_of_bays h.bays]; exact busy

theorem closingLaw_of_mode {t : State} (h : t.mode ≠ .closing) : ClosingLaw t := fun closing => absurd closing h

theorem modesKept_of_calm {s t : State} (h : Calm s t)
    (attempt : s.rlc.attempt.isSome = true → t.rlc.attempt.isSome = true) : ModesKept s t :=
  ⟨keepsModes_of_steady (h.steady attempt), fun law => law.of_calm h⟩

theorem ModesKept.refl (s : State) : ModesKept s s := modesKept_of_calm (.refl s) id

/-- What an event that ends an attempt or finds none in flight may do to the modes. -/
structure ModeEffect (s x : State) : Prop where
  due : x.restartDue = s.restartDue
  mode : ModeStep s.mode x.mode
  closing : ClosingLaw s → ClosingLaw x

theorem modeEffect_of_calm {s x : State} (h : Calm s x) : ModeEffect s x :=
  ⟨h.restartDue, h.mode ▸ .refl _, fun law => law.of_calm h⟩

theorem modeEffect_of_check {s x : State} (due : x.restartDue = s.restartDue) (mode : ModeStep s.mode x.mode) :
    ModeEffect s x.closingCheck := by
  refine ⟨x.closingCheck_restartDue.trans due, ?_, fun _ => x.closingCheck_law⟩
  unfold State.closingCheck
  split
  · rename_i idle
    exact (idle.1 ▸ mode).closed
  · exact mode

/-- An event that leaves the mode and the flag, before the check in CLOSING. -/
theorem modeEffect_of_same_check {s x : State} (h : x.mode = s.mode ∧ x.restartDue = s.restartDue) :
    ModeEffect s x.closingCheck := modeEffect_of_check h.2 (h.1 ▸ .refl _)

theorem ModeEffect.before {s u x : State} (k : ModeEffect s u) (h : Calm u x) : ModeEffect s x :=
  ⟨h.restartDue.trans k.due, h.mode ▸ k.mode, fun law => (k.closing law).of_calm h⟩

/-- With no attempt in flight no restart is due. -/
theorem modesKept_of_idle {s x : State} (idle : s.rlc.attempt = none) (h : ModeEffect s x) : ModesKept s x := by
  refine ⟨keepsModes_of_undue fun law => ⟨Bool.eq_false_iff.mpr fun due => ?_, h.mode⟩, h.closing⟩
  have inFlight := (law (h.due ▸ due)).2
  rw [idle] at inFlight
  cases inFlight

/-! ### Restarts -/

/-- R179: a restart that has been carried out leaves the post in JOINING with none due. -/
theorem carryOutRestart_modes (s : State) : s.carryOutRestart.mode = .joining ∧ s.carryOutRestart.restartDue = false := by
  unfold State.carryOutRestart
  obtain ⟨_, _, _, _, _, e⟩ := (State.handOver (s.clearForRestart.setRestartDue false) false .resetMark).enterJoining_sets
  obtain ⟨_, _, _, e'⟩ := (s.clearForRestart.setRestartDue false).handOver_sets false .resetMark
  rw [e, e']
  exact ⟨rfl, rfl⟩

/-- R50, R179: at the end of an attempt the modes are kept by its own effects and by the restart that is due. -/
theorem modesKept_afterAttempt {s x : State} (h : ModeEffect s x) : ModesKept s x.afterAttempt := by
  obtain ⟨joining, undue⟩ := carryOutRestart_modes x
  unfold State.afterAttempt
  split
  · rename_i isDue
    refine ⟨keepsModes_of_undue fun law => ⟨undue, ?_⟩, fun _ => closingLaw_of_mode (by rw [joining]; nofun)⟩
    rw [joining, (law (h.due ▸ isDue)).1]
    exact .inr (.inr (.inr (.inr (.inr (.inr ⟨rfl, .inr rfl⟩)))))
  · rename_i notDue
    exact ⟨keepsModes_of_undue fun _ => ⟨Bool.eq_false_iff.mpr notDue, h.mode⟩, h.closing⟩

/-- R171, R179: a restart applied is carried out, or is due and waits. -/
theorem keepsModes_applyRestart {s : State} (h : s.mode = .maintenance) : KeepsModes s s.applyRestart := by
  obtain ⟨joining, undue⟩ := carryOutRestart_modes s
  unfold State.applyRestart
  split
  · rename_i inFlight
    exact fun _ => ⟨fun _ => ⟨h, inFlight⟩, .refl _⟩
  · refine keepsModes_of_undue fun _ => ⟨undue, ?_⟩
    rw [joining, h]
    exact .inr (.inr (.inr (.inr (.inr (.inr ⟨rfl, .inr rfl⟩)))))

/-- R171: an actuating action applied keeps the modes. -/
theorem keepsModes_applyAction (s : State) (a : RowAction) (bay : Option Bay) : KeepsModes s (s.applyAction a bay) := by
  unfold State.applyAction
  split
  · rename_i admitted
    dsimp only
    split
    · exact keepsModes_of_steady (.fold State.clearFault_steady _ s)
    · exact keepsModes_of_steady (.fold State.openService_steady _ s)
    · exact keepsModes_of_steady (.fold State.closeService_steady _ s)
    · exact keepsModes_of_steady (.fold State.relatchOpen_steady _ s)
    · exact keepsModes_of_steady (.fold State.patrolBay_steady _ s)
    · exact keepsModes_applyRestart (eq_of_beq admitted)
    all_goals exact keepsModes_of_steady (.refl s)
  · exact keepsModes_of_steady (.refl s)

theorem keepsModes_delayAction (s : State) (a : RowAction) (bay : Option Bay) : KeepsModes s (s.delayAction a bay) := by
  unfold State.delayAction
  dsimp only
  split
  · exact keepsModes_applyAction s a _
  · split
    · exact keepsModes_of_steady (.of_eqs rfl rfl rfl)
    · exact keepsModes_of_steady (s.raise_steady _ _)

/-! ### Frames of other stations -/

/-- R92: a completed join takes the post from JOINING to SERVICE. -/
theorem modeEffect_completeJoin {s : State} (h : s.mode = .joining) : ModeEffect s s.completeJoin := by
  have after : s.completeJoin.mode = .service ∧ s.completeJoin.restartDue = s.restartDue := by
    unfold State.completeJoin
    dsimp only
    obtain ⟨_, _, e⟩ := State.removeProtocol_sets (s.setJu _) Frame.isJoin
    rw [e]
    exact ⟨rfl, rfl⟩
  obtain ⟨service, due⟩ := after
  refine ⟨due, ?_, fun _ => closingLaw_of_mode (by rw [service]; nofun)⟩
  rw [service, h]
  exact .inr (.inr (.inl ⟨rfl, rfl⟩))

/-- R15, R82, R90: a DUMP-END heard. -/
theorem modeEffect_takeDumpEnd (s : State) (d : Addr) (frames entries : Nat) (x : Option Stamp) :
    ModeEffect s (s.takeDumpEnd d frames entries x) := by
  unfold State.takeDumpEnd
  refine ModeEffect.before ?_ (State.takeDumperStamp_calm _ x)
  split
  · rename_i joining
    unfold State.testDumpEnd
    split
    · split
      · exact modeEffect_completeJoin joining
      · exact modeEffect_of_calm (s.setJu_calm _)
    · split
      · exact modeEffect_completeJoin joining
      · exact modeEffect_of_calm (.refl s)
  · split
    · exact modeEffect_of_calm s.takeOpening_calm
    · exact modeEffect_of_calm (.refl s)

/-- R107: the abort leaves the mode and the restart-due flag. -/
theorem abort_modes (s : State) : s.abort.mode = s.mode ∧ s.abort.restartDue = s.restartDue := by
  obtain ⟨_, _, _, _, _, _, _, e⟩ := s.abort_sets
  rw [e]
  exact ⟨rfl, rfl⟩

/-- R107, R169: the mode leaves SERVICE by the table. -/
theorem modeEffect_leaveService {s : State} (h : s.mode = .service) {m : PostMode} (hm : ModeStep .service m) :
    ModeEffect s (s.leaveService m).closingCheck := by
  obtain ⟨mode, due⟩ := abort_modes (s.setMode m)
  exact modeEffect_of_check due (by rw [h]; exact (mode : (s.leaveService m).mode = m) ▸ hm)

/-- R169: MAINTAIN-ENTER changes the mode by the table. -/
theorem modeEffect_maintainEnter (s : State) : ModeEffect s s.maintainEnter.closingCheck := by
  have next (m : PostMode) (h : m = .service ∨ m = .hold) :
      ModeStep m (if s.allBaysIdle = true then .maintenance else .closing) := by
    rcases h with rfl | rfl <;> split <;> simp [ModeStep]
  unfold State.maintainEnter
  dsimp only
  split
  · rename_i service
    exact modeEffect_leaveService service (next _ (.inl rfl))
  · rename_i hold
    exact modeEffect_of_check rfl (hold ▸ next _ (.inr rfl))
  · exact modeEffect_of_same_check ⟨rfl, rfl⟩

/-- R45: frames are heard with no attempt in flight; what a discarded one does is calm. -/
theorem modesKept_receive {α : Type} (s : State) (k : FrameKind) (f : RowFrame) (payload : Option α)
    (act : α → State → State) (h : ∀ x u, u.rlc.attempt = none → ModesKept u (act x u)) :
    ModesKept s (s.receive k f payload act) := by
  unfold State.receive
  split
  · rename_i hearing
    have idle : s.rlc.attempt = none := by
      unfold State.hearing at hearing
      exact Option.isNone_iff_eq_none.mp (Bool.and_eq_true_iff.mp hearing).2
    have unheard := modesKept_of_calm (s.setRlc_calm { s.rlc with vetoDriven := false }) id
    dsimp only
    split
    · exact modesKept_of_idle idle (modeEffect_of_calm ((s.setRlc_calm _).trans (State.raise_calm _ _ _)))
    · split
      · exact unheard
      · split
        · exact h _ (s.setVeto false) idle
        · exact unheard
  · exact .refl s

/-- A frame whose effect is no restart. -/
theorem modesKept_receive_effect {α : Type} (s : State) (k : FrameKind) (f : RowFrame) (payload : Option α)
    (act : α → State → State) (h : ∀ x u, ModeEffect u (act x u)) : ModesKept s (s.receive k f payload act) :=
  modesKept_receive s k f payload act (fun x u idle => modesKept_of_idle idle (h x u))

/-- R168: an action's frame, whose effect ends with the check in CLOSING. -/
theorem modesKept_receiveAction (s : State) (a : RowAction) (f : RowFrame) (act : Option Bay → State → State)
    (h : ∀ bay u, u.rlc.attempt = none → ModesKept u (act bay u).closingCheck) : ModesKept s (s.receiveAction a f act) := by
  refine modesKept_receive s .action f _ _ (fun bay u idle => ?_)
  split
  · exact h bay u idle
  · exact .refl u

theorem modesKept_receiveAction_effect (s : State) (a : RowAction) (f : RowFrame) (act : Option Bay → State → State)
    (h : ∀ bay u, ModeEffect u (act bay u).closingCheck) : ModesKept s (s.receiveAction a f act) :=
  modesKept_receiveAction s a f act (fun bay u idle => modesKept_of_idle idle (h bay u))

theorem modesKept_receiveActuating (s : State) (a : RowAction) (f : RowFrame) : ModesKept s (s.receiveActuating a f) :=
  modesKept_receiveAction s a f _ (fun bay u _ => modesKept_of_check (keepsModes_delayAction u a bay))

/-! ### Tap events -/

theorem answerSecond_attempt (s : State) (v : Verdict) : (s.answerSecond v).rlc = s.rlc := by
  obtain ⟨_, e⟩ := s.answerSecond_sets v
  rw [e]

theorem unreadable_attempt (s : State) : s.rlc.attempt.isSome = true → s.unreadable.rlc.attempt.isSome = true := by
  unfold State.unreadable
  split
  · exact id
  · rw [answerSecond_attempt]; exact id
  · exact id

theorem arrived_attempt (s : State) (bytes : List Byte) :
    s.rlc.attempt.isSome = true → (s.arrived bytes).rlc.attempt.isSome = true := by
  have tested (u : State) (t : Token) : (u.intake t).rlc = u.rlc := by
    unfold State.intake
    split
    · rfl
    · split <;> rfl
  unfold State.arrived
  split
  · exact unreadable_attempt s
  · split
    · rw [tested]; exact id
    · split
      · exact id
      · rw [answerSecond_attempt]; exact id
    · exact id

/-! ### The post's own frames -/

/-- R42: an echo ends its attempt. -/
theorem modesKept_echo (s : State) (k : FrameKind) (effect : Frame → Settled → State → State)
    (h : ∀ f x u, ModeEffect u (effect f x u)) : ModesKept s (s.echo k effect) := by
  unfold State.echo
  split
  · exact .refl s
  · rename_i a _
    split
    · rename_i q _ _
      split
      · have sent : Calm s ((s.setVeto false).dropAttempt a) := (s.setRlc_calm _).trans (State.dropAttempt_calm _ a)
        obtain ⟨due, mode, closing⟩ := h q.frame a.settled ((s.setVeto false).dropAttempt a)
        exact modesKept_afterAttempt ⟨due.trans sent.restartDue, sent.mode ▸ mode, fun law => closing (law.of_calm sent)⟩
      · exact .refl s
    · exact .refl s

theorem logDataEchoEffect_modes (f : Frame) (x : Settled) (s : State) :
    (logDataEchoEffect f x s).mode = s.mode ∧ (logDataEchoEffect f x s).restartDue = s.restartDue := by
  have moved (g n : Nat) : (s.moveCursor g n).mode = s.mode ∧ (s.moveCursor g n).restartDue = s.restartDue := by
    unfold State.moveCursor
    dsimp only
    split
    · obtain ⟨_, _, _, _, _, _, e⟩ := State.clearSegment_sets (s.setStore _) g
      rw [e]
      exact ⟨rfl, rfl⟩
    · exact ⟨rfl, rfl⟩
  have offered (u : State) : u.offerNotice.mode = u.mode ∧ u.offerNotice.restartDue = u.restartDue :=
    ⟨u.offerNotice_calm.mode, u.offerNotice_calm.restartDue⟩
  unfold logDataEchoEffect
  split
  · refine ⟨(offered _).1.trans ?_, (offered _).2.trans ?_⟩
    · split
      · exact (moved _ _).1
      · rfl
    · split
      · exact (moved _ _).2
      · rfl
  · exact ⟨rfl, rfl⟩

theorem dumpEchoEffect_calm (f : Frame) (x : Settled) (s : State) : Calm s (dumpEchoEffect f x s) := by
  unfold dumpEchoEffect
  split
  · exact (s.setJu_calm _).trans (State.queueProtocol_calm _ _)
  · exact .refl s

theorem statusReplyEchoEffect_calm (f : Frame) (x : Settled) (s : State) : Calm s (statusReplyEchoEffect f x s) := by
  unfold statusReplyEchoEffect
  split
  · split
    · exact s.takeOldest_calm
    · exact s.offerNotice_calm
  · exact .refl s

theorem claimEchoEffect_calm (f : Frame) (x : Settled) (s : State) : Calm s (claimEchoEffect f x s) := by
  unfold claimEchoEffect
  split
  · exact s.claimEchoed_calm _
  · exact .refl s

theorem objectEchoEffect_calm (f : Frame) (x : Settled) (s : State) : Calm s (objectEchoEffect f x s) := by
  unfold objectEchoEffect
  split
  · exact s.setCe_calm _
  · exact .refl s

theorem joinEchoEffect_calm (f : Frame) (x : Settled) (s : State) : Calm s (joinEchoEffect f x s) := by
  unfold joinEchoEffect
  split
  · exact s.setJu_calm _
  · exact .refl s

/-- R44: what a producer does at a drop leaves the mode and the restart-due flag. -/
theorem producerDropped_modes (s : State) (f : Frame) :
    (s.producerDropped f).mode = s.mode ∧ (s.producerDropped f).restartDue = s.restartDue := by
  have of_calm {t : State} (h : Calm s t) : t.mode = s.mode ∧ t.restartDue = s.restartDue := ⟨h.mode, h.restartDue⟩
  cases f with
  | claim t _ _ =>
    obtain ⟨_, _, _, _, e⟩ := s.claimDropped_sets t
    exact ⟨(congrArg State.mode e :), (congrArg State.restartDue e :)⟩
  | object => exact ⟨rfl, rfl⟩
  | lapse => exact ⟨rfl, rfl⟩
  | join =>
    refine of_calm (?_ : Calm s s.joinDropped)
    unfold State.joinDropped
    split
    · exact s.queueProtocol_calm _
    · exact .refl s
  | dump => exact of_calm s.endDump_calm
  | dumpEnd => exact of_calm s.endDump_calm
  | logReady => exact of_calm s.offerNotice_calm
  | logData => exact of_calm s.offerNotice_calm
  | statusReply => exact of_calm s.offerNotice_calm
  | notice => exact of_calm s.offerNotice_calm

/-- R44, R45: a veto of the post's own frame. -/
theorem modeEffect_vetoAttempt (s : State) (a : Attempt) (q : Queued) : ModeEffect s (s.vetoAttempt a q) := by
  have unmarked (u : State) (f : Frame) : Calm u (u.noticeUnmarked f) := by
    unfold State.noticeUnmarked
    split
    · exact u.setAq_calm _
    · exact .refl u
  unfold State.vetoAttempt
  split
  · exact modeEffect_of_calm (s.dropAttempt_calm a)
  · split
    · exact modeEffect_of_calm (s.countVeto_calm a)
    · have before := ((s.dropAttempt_calm a).trans (unmarked _ q.frame)).trans (State.raise_calm _ .line q.frame.dropCode)
      obtain ⟨mode, due⟩ := producerDropped_modes _ q.frame
      exact modeEffect_of_same_check ⟨mode.trans before.mode, due.trans before.restartDue⟩

theorem modesKept_ownVetoed (s : State) (readback : Bool) : ModesKept s (s.ownVetoed readback) := by
  have seen : Calm s ((if readback then s.raise .line .duplicateAddress else s).setVeto readback) := by
    split
    · exact (s.raise_calm _ _).trans (State.setRlc_calm _ _)
    · exact s.setRlc_calm _
  unfold State.ownVetoed
  split
  · exact .refl s
  · split
    · obtain ⟨due, mode, closing⟩ := modeEffect_vetoAttempt
        ((if readback then s.raise .line .duplicateAddress else s).setVeto readback) _ _
      exact modesKept_afterAttempt ⟨due.trans seen.restartDue, seen.mode ▸ mode, fun law => closing (law.of_calm seen)⟩
    · exact .refl s

/-! ### Sensors, runs and start-up -/

theorem modesKept_sensed (s : State) (b : Bay) (x : Sensor) (v : Bool) (act : State → State)
    (h : ∀ u, ModesKept u (act u)) : ModesKept s (s.sensed b x v act) := by
  have changed : Calm s (s.setInput b ((s.input b).setLevel x v)) := ⟨rfl, rfl, rfl, rfl, id⟩
  unfold State.sensed
  split
  · exact .refl s
  · dsimp only
    split
    · obtain ⟨modes, closing⟩ := h (s.setInput b ((s.input b).setLevel x v))
      exact ⟨fun law => modes law, fun law => closing (law.of_calm changed)⟩
    · exact modesKept_of_calm changed id

theorem modesKept_boundary (s : State) (kind : Step → Bool) : ModesKept s (s.boundary kind) := by
  unfold State.boundary
  split
  · exact .refl s
  · split
    · split
      · exact modesKept_of_steady_check (s.stepBoundary_steady _ _)
      · exact .refl s
    · exact .refl s

/-- R174 to R176: start-up ends in JOINING or CONFIG-FAULT. -/
theorem modesKept_endStartUp {s : State} (h : s.mode = .starting) (i : Option Image) : ModesKept s (s.endStartUp i) := by
  have undue (law : RestartLaw s) : s.restartDue = false :=
    Bool.eq_false_iff.mpr fun due => by have m := (law due).1; rw [h] at m; cases m
  cases i with
  | none =>
    exact ⟨keepsModes_of_undue fun law => ⟨undue law, h ▸ .inr (.inl ⟨rfl, .inr rfl⟩)⟩, fun _ => closingLaw_of_mode nofun⟩
  | some i =>
    have absent : ∀ (l : List Bay) (u : State), (l.foldl (fun x b => x.updateBay b (fun r => { r with state := .absent }))
        u).restartDue = u.restartDue := by
      intro l
      induction l with
      | nil => exact fun _ => rfl
      | cons b rest ih => exact fun u => ih _
    obtain ⟨_, _, _, _, _, e⟩ := ((s.setImage (some i)).absentUnfitted).enterJoining_sets
    have mode : (s.endStartUp (some i)).mode = .joining := congrArg State.mode e
    have due : (s.endStartUp (some i)).restartDue = s.restartDue :=
      (congrArg State.restartDue e).trans (absent _ _)
    refine ⟨keepsModes_of_undue fun law => ⟨due.trans (undue law), ?_⟩, fun _ => closingLaw_of_mode (by rw [mode]; nofun)⟩
    rw [mode, h]
    exact .inr (.inl ⟨rfl, .inl rfl⟩)

/-! ### The obligations -/

/-- Every command that is no reset keeps the modes: it is calm, it ends with the check in CLOSING after work that leaves the
mode, or it changes the mode by a row of the table. -/
theorem exec_modesKept {c : Instr} (hc : ¬isReset c) {s t : State} (e : exec c s = .next t) : ModesKept s t := by
  cases c <;> cases e
  case powerOn => exact (hc trivial).elim
  case resetPin => exact (hc trivial).elim
  case endOfStartUp =>
    split
    · exact modesKept_endStartUp ‹_› _
    · exact .refl s
  case sendStart =>
    split
    · rename_i start
      have idle : s.rlc.attempt = none := Option.isNone_iff_eq_none.mp (Bool.and_eq_true_iff.mp start).2
      exact modesKept_of_idle idle (modeEffect_of_calm (State.offer_calm _ s))
    · exact .refl s
  case arbitrationLost =>
    split
    · split
      · refine modesKept_afterAttempt (modeEffect_of_calm ?_)
        unfold State.loseAttempt
        split
        · exact s.dropAttempt_calm _
        · exact s.setRlc_calm _
      · exact .refl s
    · exact .refl s
  case frameVetoed =>
    split
    · exact modesKept_ownVetoed s _
    · split
      · exact modesKept_of_calm (s.setRlc_calm _) id
      · exact .refl s
  case frameCutOff => exact .refl s
  case claimEcho => exact modesKept_echo s _ _ (fun f x u => modeEffect_of_calm (claimEchoEffect_calm f x u))
  case objectEcho => exact modesKept_echo s _ _ (fun f x u => modeEffect_of_calm (objectEchoEffect_calm f x u))
  case lapseEcho => exact modesKept_echo s _ _ (fun _ _ u => modeEffect_of_calm (.refl u))
  case joinEcho => exact modesKept_echo s _ _ (fun f x u => modeEffect_of_calm (joinEchoEffect_calm f x u))
  case dumpEcho => exact modesKept_echo s _ _ (fun f x u => modeEffect_of_calm (dumpEchoEffect_calm f x u))
  case dumpEndEcho => exact modesKept_echo s _ _ (fun _ _ u => modeEffect_of_calm u.endDump_calm)
  case logReadyEcho => exact modesKept_echo s _ _ (fun _ _ u => modeEffect_of_calm u.offerNotice_calm)
  case logDataEcho => exact modesKept_echo s _ _ (fun f x u => modeEffect_of_same_check (logDataEchoEffect_modes f x u))
  case statusReplyEcho =>
    exact modesKept_echo s _ _ (fun f x u => modeEffect_of_calm (statusReplyEchoEffect_calm f x u))
  case noticeEcho => exact modesKept_echo s _ _ (fun _ _ u => modeEffect_of_calm u.noticeSent_calm)
  case claim f =>
    refine modesKept_receive_effect s _ f _ _ (fun p u => modeEffect_of_same_check ?_)
    obtain ⟨_, _, _, _, _, _, _, _, _, e⟩ := u.takeClaim_sets f.source p.1 p.2.1 p.2.2
    rw [e]; exact ⟨rfl, rfl⟩
  case object f =>
    refine modesKept_receive_effect s _ f _ _ (fun p u => modeEffect_of_same_check ?_)
    obtain ⟨_, _, _, _, _, _, _, _, _, e⟩ := u.takeObject_sets p.1 p.2
    rw [e]; exact ⟨rfl, rfl⟩
  case lapse f => exact modesKept_receive_effect s _ f _ _ (fun _ u => modeEffect_of_calm (u.setTable_calm _))
  case revoke f =>
    refine modesKept_receive_effect s _ f _ _ (fun p u => modeEffect_of_same_check ?_)
    obtain ⟨_, _, _, _, _, _, _, _, _, e⟩ := u.takeRevoke_sets p.1 p.2
    rw [e]; exact ⟨rfl, rfl⟩
  case beacon f => exact modesKept_receive_effect s _ f _ _ (fun x u => modeEffect_of_calm (u.takeBeacon_calm x))
  case join f => exact modesKept_receive_effect s _ f _ _ (fun _ u => modeEffect_of_calm u.takeJoin_calm)
  case dump f => exact modesKept_receive_effect s _ f _ _ (fun p u => modeEffect_of_calm (u.takeDump_calm _ p.1 p.2))
  case dumpEnd f => exact modesKept_receive_effect s _ f _ _ (fun p u => modeEffect_takeDumpEnd u _ p.1 p.2.1 p.2.2)
  case logFetch f => exact modesKept_receive_effect s _ f _ _ (fun _ u => modeEffect_of_calm (u.queueService_calm _))
  case logClear f =>
    refine modesKept_receive_effect s _ f _ _ (fun g u => modeEffect_of_same_check ?_)
    have answered (x : Frame) : (u.queueService x).mode = u.mode ∧ (u.queueService x).restartDue = u.restartDue :=
      ⟨(u.queueService_calm x).mode, (u.queueService_calm x).restartDue⟩
    unfold State.takeLogClear
    dsimp only
    split
    · exact answered _
    · split
      · split
        · obtain ⟨_, _, _, _, _, _, e⟩ := State.clearSegment_sets (u.queueService _) g.toNat
          rw [e]; exact answered _
        · exact ⟨rfl, rfl⟩
      · exact answered _
  case statusQuery f => exact modesKept_receive_effect s _ f _ _ (fun _ u => modeEffect_of_calm (u.queueService_calm _))
  case serviceFrameDiscarded f => exact modesKept_receive_effect s _ f _ _ (fun _ u => modeEffect_of_calm (.refl u))
  case hold f =>
    refine modesKept_receiveAction_effect s .hold f _ (fun _ u => ?_)
    split
    · exact modeEffect_leaveService ‹_› (.inr (.inr (.inr (.inl ⟨rfl, .inl rfl⟩))))
    · exact modeEffect_of_same_check ⟨rfl, rfl⟩
  case resume f =>
    refine modesKept_receiveAction_effect s .resume f _ (fun _ u => ?_)
    split
    · rename_i hold
      exact modeEffect_of_check rfl (hold ▸ .inr (.inr (.inr (.inr (.inl ⟨rfl, .inl rfl⟩)))))
    · exact modeEffect_of_same_check ⟨rfl, rfl⟩
  case maintainEnter f => exact modesKept_receiveAction_effect s .maintainEnter f _ (fun _ u => modeEffect_maintainEnter u)
  case maintainExit f =>
    refine modesKept_receiveAction_effect s .maintainExit f _ (fun _ u => ?_)
    split
    · rename_i exits
      refine modeEffect_of_check rfl ?_
      rcases exits with closing | maintenance
      · exact closing ▸ .inr (.inr (.inr (.inr (.inr (.inl ⟨rfl, .inr rfl⟩)))))
      · exact maintenance ▸ .inr (.inr (.inr (.inr (.inr (.inr ⟨rfl, .inl rfl⟩)))))
    · exact modeEffect_of_same_check ⟨rfl, rfl⟩
  case hush f => exact modesKept_receiveAction_effect s .hush f _ (fun _ _ => modeEffect_of_same_check ⟨rfl, rfl⟩)
  case unhush f =>
    refine modesKept_receiveAction_effect s .unhush f _ (fun _ u => modeEffect_of_same_check ?_)
    have offered := (u.setAq_calm { u.aq with hush := false }).trans (State.offerNotice_calm _)
    exact ⟨offered.mode, offered.restartDue⟩
  case faultClear f => exact modesKept_receiveActuating s _ f
  case serviceOpen f => exact modesKept_receiveActuating s _ f
  case serviceClose f => exact modesKept_receiveActuating s _ f
  case relatchOpen f => exact modesKept_receiveActuating s _ f
  case patrolNow f => exact modesKept_receiveActuating s _ f
  case restart f => exact modesKept_receiveActuating s _ f
  case actionDelayExpiry =>
    split
    · rename_i r rest _
      exact modesKept_of_check (fun law => keepsModes_applyAction (s.setDelays rest) r.action r.bay law)
    · exact .refl s
  case secondIntervalExpiry =>
    split
    · exact modesKept_of_calm (s.advance_calm _) (by unfold State.advance; dsimp only; split <;> exact id)
    · exact .refl s
  case beaconLossExpiry =>
    split
    · refine modesKept_of_calm ((s.setSsu_calm _).trans (State.raise_calm _ _ _)) ?_
      exact fun h => (State.raise_steady _ .stamp .stampStale).attempt h
    · exact .refl s
  case settleExpiry =>
    split
    · exact modesKept_of_steady_check (s.settled_steady _)
    · exact .refl s
  case joinAtFirstIdleGap =>
    split
    · exact modesKept_of_calm ((s.setJu_calm _).trans (State.queueProtocol_calm _ _))
        (fun h => (State.queueProtocol_steady _ .join).attempt h)
    · exact .refl s
  case joinWindowExpiry =>
    split
    · rename_i joining
      obtain ⟨due, mode, closing⟩ := (modeEffect_completeJoin joining.1).before (State.raise_calm _ .post .coldJoin)
      refine ⟨keepsModes_of_undue fun law => ⟨due.trans ?_, mode⟩, closing⟩
      exact Bool.eq_false_iff.mpr fun isDue => by have m := (law isDue).1; rw [joining.1] at m; cases m
    · exact .refl s
  case dumpStaggerExpiry =>
    split
    · exact modesKept_of_calm s.beginDump_calm (fun h => (State.queueProtocol_steady _ .dump).attempt h)
    · exact .refl s
  case startMarker =>
    split
    · exact .refl s
    · split
      · exact modesKept_of_calm ⟨rfl, rfl, rfl, rfl, fun _ => nofun⟩ id
      · exact modesKept_of_calm ⟨rfl, rfl, rfl, rfl, id⟩ id
      · exact modesKept_of_calm ⟨rfl, rfl, rfl, rfl, id⟩ id
  case wrongLengthByte =>
    split
    · exact .refl s
    · exact modesKept_of_calm s.unreadable_calm (unreadable_attempt s)
  case intakeTimerExpiry =>
    split
    · exact modesKept_of_calm s.unreadable_calm (unreadable_attempt s)
    · exact .refl s
  case presentFullyArrived bytes => exact modesKept_of_calm (s.arrived_calm bytes) (arrived_attempt s bytes)
  case tokenCheckCompletion =>
    split
    · exact modesKept_of_steady_check
        (Steady.trans (t := s.setTcu ⟨false, none⟩) (.of_eqs rfl rfl rfl) (State.checkDone_steady _ _))
    · exact .refl s
  case verdictSent =>
    split
    · exact modesKept_of_steady_check (t := s.messageSent.finishTransaction) (.of_eqs rfl rfl rfl)
    · exact modesKept_of_calm (s.setLink_calm _) id
    · exact .refl s
  case bayLightSent =>
    split
    · exact modesKept_of_calm (s.setLink_calm _) id
    · exact .refl s
  case presenceRising b => exact modesKept_sensed s b _ _ _ .refl
  case presenceFalling b => exact modesKept_sensed s b _ _ _ (fun u => modesKept_of_steady_check (u.presenceFell_steady b))
  case seatRising b => exact modesKept_sensed s b _ _ _ (fun u => modesKept_of_steady_check (u.tryDock_steady b))
  case seatFalling b => exact modesKept_sensed s b _ _ _ (fun u => modesKept_of_steady_check (u.seatFell_steady b))
  case homeRising b => exact modesKept_sensed s b _ _ _ .refl
  case homeFalling b => exact modesKept_sensed s b _ _ _ (fun u => modesKept_of_steady_check (u.latchLost_steady b _))
  case clearRising b => exact modesKept_sensed s b _ _ _ .refl
  case clearFalling b => exact modesKept_sensed s b _ _ _ .refl
  case driverFaultRising b =>
    have changed : Calm s (s.driverInput b true) := ⟨rfl, rfl, rfl, rfl, id⟩
    split
    · exact .refl s
    · dsimp only
      split
      · exact modesKept_of_steady_check
          (Steady.trans (t := s.driverInput b true) (.of_eqs rfl rfl rfl) (State.latchLost_steady _ b _))
      · exact modesKept_of_calm changed id
  case driverFaultFalling => exact modesKept_of_calm ⟨rfl, rfl, rfl, rfl, id⟩ id
  case coldInputChange => exact modesKept_of_calm ⟨rfl, rfl, rfl, rfl, id⟩ id
  case takeTimerExpiry b =>
    split
    · exact modesKept_of_steady_check (s.beginRelatch_steady b _)
    · exact .refl s
  case patrolTimerExpiry =>
    split
    · have started : Calm s s.startPatrol := ⟨rfl, rfl, rfl, rfl, id⟩
      exact modesKept_of_calm (started.trans (patrolAll_calm _ _))
        (Steady.fold State.patrolBay_steady s.fittedBays s.startPatrol).attempt
    · exact .refl s
  case tagReadAttemptCompletion b answer =>
    split
    · exact modesKept_of_steady_check (s.tagAttempt_steady b _ _)
    · exact .refl s
  case faultResetPulseEnd =>
    split
    · split
      · exact modesKept_of_steady_check (s.pulseEnd_steady _)
      · exact .refl s
    · exact .refl s
  case boltStepEnd => exact modesKept_boundary s _
  case dwellEnd => exact modesKept_boundary s _
  case senseReading => exact modesKept_boundary s _
  case endOfArbitrationField =>
    split
    · split
      · exact modesKept_of_calm (s.setRlc_calm _) (fun _ => rfl)
      · exact .refl s
    · exact .refl s
  case ownAddressFrameReceived =>
    split
    · refine modesKept_of_calm ((s.setRlc_calm _).trans (State.raise_calm _ _ _)) ?_
      exact (State.raise_steady (s.setVeto false) .line .duplicateAddress).attempt
    · exact .refl s
  case unknownKindFrame =>
    split
    · split
      · refine modesKept_of_calm ((s.setRlc_calm _).trans (State.raise_calm _ _ _)) ?_
        exact (State.raise_steady (s.setVeto false) .line .duplicateAddress).attempt
      · exact modesKept_of_calm (s.setRlc_calm _) id
    · exact .refl s

/-- Settles O57: a reset leaves no restart due, and every other command keeps the modes (`exec_modesKept`). -/
theorem modesChangeByTheirTable : Obligations.ModesChangeByTheirTable := by
  intro c s t law e
  by_cases hc : isReset c
  · refine ⟨?_, fun hn => absurd hc hn⟩
    cases c with
    | powerOn a => cases e; exact nofun
    | resetPin a => cases e; exact nofun
    | _ => exact hc.elim
  · obtain ⟨waits, changed⟩ := (exec_modesKept hc e).1 law
    exact ⟨waits, fun _ => changed⟩

/-- R178: the six states that keep a bay from being idle. -/
theorem busy_iff (x : BayState) :
    x.busy = true ↔ x ∈ [BayState.reserved, .releasing, .opened, .relatching, .reopening, .docking] := by
  cases x <;> decide

/-- Settles O58: the check's two cases by `State.allBaysIdle_iff`; after every command the law holds by `exec_modesKept`, and
after a reset because the post is STARTING. -/
theorem closingEndsWhenAllBaysAreIdle : Obligations.ClosingEndsWhenAllBaysAreIdle := by
  refine ⟨fun s => ⟨fun closing idle quiet => ?_, fun h => ?_⟩, fun c s t law e => ?_⟩
  · refine if_pos ⟨closing, (s.allBaysIdle_iff).mpr ⟨idle, fun b hb => ?_⟩⟩
    exact Bool.eq_false_iff.mpr fun busy => quiet b hb ((busy_iff _).mp busy)
  · refine if_neg fun ⟨closing, allIdle⟩ => ?_
    obtain ⟨idle, quiet⟩ := (s.allBaysIdle_iff).mp allIdle
    rcases h with h | h | ⟨b, hb, busy⟩
    · exact h closing
    · exact h idle
    · exact absurd ((busy_iff _).mpr busy) (Bool.eq_false_iff.mp (quiet b hb))
  · by_cases hc : isReset c
    · cases c with
      | powerOn a => cases e; exact closingLaw_of_mode nofun
      | resetPin a => cases e; exact closingLaw_of_mode nofun
      | _ => exact hc.elim
    · exact (exec_modesKept hc e).2 law

end Sys2Proof.Safety
end

section
/-! SUPPORT. Basics: the front of the queue, resets, start-up, messages sent, and input changes no rule answers (R93, R109, R112,
R115, R173 to R178). -/

namespace Sys2Proof.Machine

/-! ### Input changes -/

theorem BayInputs.setLevel_self {i : BayInputs} {x : Sensor} {v : Bool} (h : i.level x = v) : i.setLevel x v = i := by
  subst h; cases x <;> rfl

/-- R112: a change that no rule answers changes the level seen and nothing else. -/
theorem State.sensed_unanswered (s : State) (b : Bay) (x : Sensor) (v : Bool) :
    s.sensed b x v (fun u => u) = s.setInput b ((s.input b).setLevel x v) := by
  unfold State.sensed
  split
  · rename_i same
    rw [BayInputs.setLevel_self same]
    unfold State.setInput State.input State.setInputs
    rw [PerBay.set_get]
  · exact ite_self _

/-- R112: a change that is one, in a mode in which sensor changes are taken, is answered. -/
theorem State.sensed_answered {s : State} {b : Bay} {x : Sensor} {v : Bool} (act : State → State)
    (working : s.mode.working = true) (h : (s.input b).level x ≠ v) :
    s.sensed b x v act = act (s.setInput b ((s.input b).setLevel x v)) :=
  (if_neg h).trans (if_pos working)

/-! ### Messages sent -/

/-- R93: an idle transmitter takes the oldest message. -/
theorem TapLink.start_idle (l : List TapMessage) : TapLink.start ⟨l, none⟩ = ⟨l.tail, l.head?⟩ := by
  cases l <;> rfl

theorem State.messageSent_eq (s : State) : s.messageSent = { s with link := ⟨s.link.list.tail, s.link.list.head?⟩ } := by
  unfold State.messageSent State.setLink
  rw [TapLink.start_idle]

/-- R178: the mode after the check in CLOSING with the transaction in IDLE. -/
theorem State.closingCheck_idle {s : State} (closing : s.mode = .closing) (idle : s.tap.phase = .idle) :
    ((∀ b : Bay, b.val < s.cfg.baysFitted → (s.bay b).state.busy = false) → s.closingCheck.mode = .maintenance) ∧
      ((∃ b : Bay, b.val < s.cfg.baysFitted ∧ (s.bay b).state.busy = true) → s.closingCheck.mode = .closing) := by
  refine ⟨fun quiet => ?_, fun ⟨b, hb, busy⟩ => ?_⟩
  · unfold State.closingCheck
    rw [if_pos ⟨closing, s.allBaysIdle_iff.mpr ⟨idle, quiet⟩⟩]
    rfl
  · unfold State.closingCheck
    rw [if_neg fun h => ?_]
    · exact closing
    · have quiet := (s.allBaysIdle_iff.mp h.2).2 b hb
      rw [busy] at quiet
      cases quiet

/-! ### Start-up -/

/-- R116, R145: while the drive is held for another bay's run, the bays that begin calibration wait for it in their order. -/
theorem calibrateAll_waiting (l : List Bay) : ∀ s : State, s.drive.holder.isSome = true → l.Nodup →
    (∀ b ∈ l, s.wantsDrive b = false) → (l.foldl (fun x b => x.calibrate b) s).run = s.run ∧
      (l.foldl (fun x b => x.calibrate b) s).drive =
        { s.drive with waiting := s.drive.waiting ++ l.map (fun b => ⟨b, .role .home⟩) } := by
  induction l with
  | nil => exact fun s _ _ _ => ⟨rfl, by rw [List.map_nil, List.append_nil]; rfl⟩
  | cons b rest ih =>
    intro s held once free
    obtain ⟨holder, hh⟩ := Option.isSome_iff_exists.mp held
    obtain ⟨unlisted, once'⟩ := List.nodup_cons.mp once
    have none := free b (List.mem_cons_self ..)
    have asked : s.calibrate b = { (s.updateBay b BayRecord.calibrating) with
        drive := { s.drive with waiting := s.drive.waiting ++ [⟨b, .role .home⟩] } } := by
      unfold State.calibrate
      rw [((s.wantsDrive_false_iff b).mp none).2]
      exact Safety.requestRun_of_held (s := s.updateBay b BayRecord.calibrating) _ none hh
    have others (c : Bay) (hc : c ∈ rest) : (s.calibrate b).wantsDrive c = false := by
      have before := free c (List.mem_cons_of_mem _ hc)
      have other : (b == c) = false := beq_eq_false_iff_ne.mpr (fun e => unlisted (e ▸ hc))
      rw [asked]
      simpa [State.wantsDrive, State.requestWaits, State.runsAt, State.updateBay, State.setBay, other] using before
    obtain ⟨run, drive⟩ := ih (s.calibrate b) (by rw [asked]; exact held) once' others
    rw [List.foldl_cons, run, drive, asked]
    exact ⟨rfl, by simp⟩

/-- R145, R175: from a FREE drive with none waiting the first bay's HOME run is granted and the others wait. -/
theorem calibrateAll_granted {s : State} {b : Bay} {rest : List Bay} (free : s.drive = ⟨[], none⟩) (still : s.run = none)
    (once : (b :: rest).Nodup) :
    (((b :: rest).foldl (fun x b => x.calibrate b) s).run.map (fun r => (r.bay, r.run)) = some (b, .role .home)) ∧
      ((b :: rest).foldl (fun x b => x.calibrate b) s).drive = ⟨rest.map (fun c => ⟨c, .role .home⟩), some b⟩ := by
  obtain ⟨unlisted, once'⟩ := List.nodup_cons.mp once
  have granted : s.calibrate b = { (s.updateBay b BayRecord.calibrating) with
      drive := ⟨[], some b⟩, run := (s.calibrate b).run } ∧
      (s.calibrate b).run.map (fun r => (r.bay, r.run)) = some (b, .role .home) := by
    unfold State.calibrate State.requestRun State.wantsDrive State.requestWaits State.runsAt State.grant
    simp [free, still, State.updateBay, State.setBay, State.setBays, State.setDrive, State.setRun, State.startedRun]
  obtain ⟨asked, run⟩ := granted
  have others (c : Bay) (hc : c ∈ rest) : (s.calibrate b).wantsDrive c = false := by
    have other : b ≠ c := fun e => unlisted (e ▸ hc)
    have noRun : (s.calibrate b).runsAt c = false := by
      unfold State.runsAt
      cases h : (s.calibrate b).run with
      | none => rfl
      | some r =>
        rw [h] at run
        have : r.bay = b := congrArg Prod.fst (Option.some.inj run)
        simp [this, other]
    have noWait : (s.calibrate b).requestWaits c = false := by rw [asked]; rfl
    exact ((s.calibrate b).wantsDrive_false_iff c).mpr ⟨noWait, noRun⟩
  obtain ⟨run', drive'⟩ := calibrateAll_waiting rest (s.calibrate b) (by rw [asked]; rfl) once' others
  rw [List.foldl_cons, run', drive', asked]
  exact ⟨asked ▸ run, by simp⟩

/-- R174, R186: a valid record has one to four bays fitted. -/
theorem imageOf_baysFitted {strap : Addr} {m : Option (List Byte)} {i : Image} (h : imageOf strap m = some i) :
    1 ≤ i.baysFitted ∧ i.baysFitted ≤ 4 := by
  unfold imageOf at h
  split at h
  · rename_i bytes
    dsimp only at h
    split at h
    · rename_i valid
      cases h
      simp only [recordValid, fieldsInRange, within, Bool.and_eq_true, decide_eq_true_eq] at valid
      exact (by omega : 1 ≤ field (bytes.take Config.recordBytes) 3 1 ∧ field (bytes.take Config.recordBytes) 3 1 ≤ 4)
    · cases h
  · cases h

/-- The fitted bays of a post with one or more, bay 0 first. -/
theorem State.fittedBays_cons {s : State} (h : 1 ≤ s.cfg.baysFitted) :
    s.fittedBays = 0 :: ([1, 2, 3] : List Bay).filter (fun b => b.val < s.cfg.baysFitted) :=
  List.filter_cons_of_pos (decide_eq_true h)

/-- R175 item 2: the bays at or above the fitted count are ABSENT, the others as they were. -/
theorem State.absentUnfitted_sets (s : State) : ∃ bs, s.absentUnfitted = { s with bays := bs } := by
  have each : ∀ (l : List Bay) (u : State), ∃ bs, l.foldl (fun x b => x.updateBay b (fun r => { r with state := .absent })) u =
      { u with bays := bs } := by
    intro l
    induction l with
    | nil => exact fun u => ⟨_, rfl⟩
    | cons b rest ih =>
      intro u
      obtain ⟨bs, e⟩ := ih (u.updateBay b (fun r => { r with state := .absent }))
      exact ⟨bs, e⟩
  exact each _ s

theorem State.absentUnfitted_state (s : State) (b : Bay) :
    (s.absentUnfitted.bay b).state = if b.val < s.cfg.baysFitted then (s.bay b).state else .absent := by
  have each : ∀ (l : List Bay) (u : State), ((l.foldl (fun x b => x.updateBay b (fun r => { r with state := .absent }))
      u).bay b).state = if b ∈ l then .absent else (u.bay b).state := by
    intro l
    induction l with
    | nil => exact fun u => rfl
    | cons c rest ih =>
      intro u
      rw [List.foldl_cons, ih, State.bay_updateBay]
      by_cases hc : b = c
      · simp [hc]
      · simp [hc]
  unfold State.absentUnfitted
  rw [each]
  by_cases fitted : b.val < s.cfg.baysFitted
  · simp [State.fitted, fitted]
  · simp [State.fitted, fitted, mem_allBays]

/-- R145, R175: the drive and the run in progress after the entry to JOINING are those the calibrations leave. -/
theorem State.enterJoining_drive (s : State) :
    s.enterJoining.run = (s.fittedBays.foldl (fun x b => x.calibrate b) (s.setMode .joining)).run ∧
      s.enterJoining.drive = (s.fittedBays.foldl (fun x b => x.calibrate b) (s.setMode .joining)).drive := by
  unfold State.enterJoining
  dsimp only
  obtain ⟨_, _, e⟩ := State.offerNotice_sets (State.setJu (State.startPatrol (List.foldl (fun x b => x.calibrate b) _ _)) _)
  rw [e]
  exact ⟨rfl, rfl⟩

/-- R175: beginning calibration at other bays leaves a bay's state. -/
theorem calibrateAll_state_other {l : List Bay} {b : Bay} (h : b ∉ l) (s : State) :
    (l.foldl (fun x b => x.calibrate b) s).bay b = s.bay b := by
  induction l generalizing s with
  | nil => rfl
  | cons c rest ih =>
    obtain ⟨other, rest'⟩ := not_or.mp (fun k => h (List.mem_cons.mpr k))
    rw [List.foldl_cons, ih rest', State.calibrate_bay, if_neg other]

/-- R93, R109: the state when the transaction's VERDICT has been sent, before the check for the end of CLOSING. -/
def State.verdictGone (s : State) : State := { s with
  link := ⟨s.link.list.tail, s.link.list.head?⟩
  tap := { TapRecord.reset with
    rotation := s.tap.rotation, intake := s.tap.intake, collecting := s.tap.collecting
    kept := if s.tap.collecting = some .second then s.tap.token.map Token.id else none } }

/-- R93, R109: the transaction's VERDICT has been sent. -/
theorem exec_verdictSent_transaction {s : State} {v : Verdict} (h : s.link.sending = some (.verdict v .transaction)) :
    exec .verdictSent s = .next (State.closingCheck s.verdictGone) := by
  change execVerdictSent s = _
  unfold execVerdictSent
  rw [h, State.messageSent_eq]
  rfl

end Sys2Proof.Machine

namespace Sys2Proof.Safety

open Sys2Proof.Machine

/-! ### The queue and resets -/

/-- Settles O1: the two cases of the queue. -/
theorem stepTakesTheFrontCommand : Obligations.StepTakesTheFrontCommand := by
  refine ⟨fun _ _ _ => rfl, fun s empty => ?_⟩
  unfold step
  rw [empty]

/-- Settles O2: both resets are `State.powerOnReset`. -/
theorem resetsLeavePowerOnValues : Obligations.ResetsLeavePowerOnValues := fun _ _ => ⟨rfl, rfl⟩

/-- Settles O59: the laws of an empty table, empty queues, a FREE drive and a post in STARTING. -/
theorem resetSatisfiesTheLaws : Obligations.ResetSatisfiesTheLaws :=
  ⟨tableLaw_of_empty rfl, queueLaw_powerOn .reset 0, vetoLaw_powerOn .reset 0, setLaw_powerOn .reset 0,
    storeLaw_powerOn .reset 0, attentionLaw_powerOn .reset 0, driveLaw_of_free List.nodup_nil rfl rfl,
    stampLaw_of_reset (c := .powerOn 0) (s := .reset) trivial rfl, nofun, closingLaw_of_mode nofun⟩

/-! ### Inputs and messages -/

/-- Settles O41: a sensor change without an answer by `State.sensed_unanswered`; the other inputs are set as they come. -/
theorem inputChangesWithoutAnAnswer : Obligations.InputChangesWithoutAnAnswer := fun s b _ =>
  ⟨congrArg Host.Outcome.next (s.sensed_unanswered b .presence true),
    congrArg Host.Outcome.next (s.sensed_unanswered b .home true),
    congrArg Host.Outcome.next (s.sensed_unanswered b .clear true),
    congrArg Host.Outcome.next (s.sensed_unanswered b .clear false), rfl, rfl⟩

/-- Settles O40: the next message by `State.messageSent_eq`, the stay in CLOSING by `State.closingCheck_idle`. -/
theorem messagesSent : Obligations.MessagesSent := by
  intro s v b i
  refine ⟨exec_verdictSent_transaction, fun sending closing => ?_, fun sending => ?_, fun sending => ?_⟩
  · exact ⟨_, exec_verdictSent_transaction sending, State.closingCheck_idle (s := s.verdictGone) closing rfl⟩
  · change execVerdictSent s = _
    unfold execVerdictSent
    rw [sending, State.messageSent_eq]
  · change execBayLightSent s = _
    unfold execBayLightSent
    rw [sending, State.messageSent_eq]

/-! ### Start-up -/

/-- R174: the end of start-up in STARTING. -/
theorem exec_endOfStartUp {s : State} (h : s.mode = .starting) (m : Option (List Byte)) :
    exec (.endOfStartUp m) s = .next (s.endStartUp (imageOf s.strap m)) := congrArg Host.Outcome.next (if_pos h)

/-- R175: the states of the bays at the end of start-up with a valid record. -/
theorem endStartUp_state {s : State} (i : Image) (b : Bay) :
    ((s.endStartUp (some i)).bay b).state = if b.val < i.baysFitted then .calibrating else .absent := by
  have before := (s.setImage (some i)).absentUnfitted_state b
  obtain ⟨_, sets⟩ := (s.setImage (some i)).absentUnfitted_sets
  have count : (s.setImage (some i)).absentUnfitted.cfg.baysFitted = i.baysFitted := by rw [sets]; rfl
  change (((s.setImage (some i)).absentUnfitted.enterJoining).bay b).state = _
  rw [State.enterJoining_bay]
  by_cases fitted : b.val < i.baysFitted
  · rw [if_pos fitted]
    refine calibrateAll_state _ _ b (.inl ?_)
    exact List.mem_filter.mpr ⟨mem_allBays b, decide_eq_true (by rw [count]; exact fitted)⟩
  · rw [if_neg fitted]
    have unnamed : b ∉ (s.setImage (some i)).absentUnfitted.fittedBays := fun mem =>
      fitted (by have := of_decide_eq_true (List.mem_filter.mp mem).2; rw [count] at this; exact this)
    rw [calibrateAll_state_other unnamed]
    exact before.trans (if_neg fitted)

/-- R145, R175: the drive at the end of start-up with a valid record. -/
theorem endStartUp_drive {s : State} {i : Image} (fitted : 1 ≤ i.baysFitted) (free : s.drive = ⟨[], none⟩)
    (still : s.run = none) :
    (s.endStartUp (some i)).run.map (fun r => (r.bay, r.run)) = some (0, .role .home) ∧ (s.endStartUp (some i)).drive =
      ⟨(([1, 2, 3] : List Bay).filter (fun b => b.val < i.baysFitted)).map (fun b => ⟨b, .role .home⟩), some 0⟩ := by
  obtain ⟨bs, sets⟩ := (s.setImage (some i)).absentUnfitted_sets
  have list : (s.setImage (some i)).absentUnfitted.fittedBays =
      0 :: ([1, 2, 3] : List Bay).filter (fun b => b.val < i.baysFitted) := by
    rw [sets]; exact State.fittedBays_cons fitted
  have once : (0 :: ([1, 2, 3] : List Bay).filter (fun b => b.val < i.baysFitted)).Nodup := by
    refine List.Nodup.sublist (List.Sublist.cons_cons 0 List.filter_sublist) ?_
    decide
  obtain ⟨run, drive⟩ := (s.setImage (some i)).absentUnfitted.enterJoining_drive
  change (State.enterJoining _).run.map _ = _ ∧ (State.enterJoining _).drive = _
  rw [run, drive, list]
  exact calibrateAll_granted (by rw [sets]; exact free) (by rw [sets]; exact still) once

/-- Settles O3: an invalid record sets the mode alone; with a valid one the entry to JOINING is `State.enterJoining_sets`, the
bays are `endStartUp_state` and the drive is `endStartUp_drive`. -/
theorem startUpEndsInJoiningOrConfigFault : Obligations.StartUpEndsInJoiningOrConfigFault := by
  intro m s starting
  rw [exec_endOfStartUp starting]
  refine ⟨fun invalid => by rw [invalid]; rfl, fun i strap inputs cold pending hs valid => ?_⟩
  have fitted := (imageOf_baysFitted valid).1
  obtain ⟨run, drive⟩ := endStartUp_drive (s := s) fitted (by rw [hs]; rfl) (by rw [hs]; rfl)
  have states (b : Bay) := endStartUp_state (s := s) i b
  obtain ⟨bs, sets⟩ := (s.setImage (some i)).absentUnfitted_sets
  obtain ⟨_, _, _, _, _, entered⟩ := (s.setImage (some i)).absentUnfitted.enterJoining_sets
  have entry : (s.endStartUp (some i)).image = some i ∧ (s.endStartUp (some i)).mode = .joining ∧
      (s.endStartUp (some i)).ju.join = .gapWait ∧
      (s.endStartUp (some i)).patrol = if i.patrolMin = 0 then none else some (60000 * i.patrolMin) := by
    change (State.enterJoining _).image = _ ∧ (State.enterJoining _).mode = _ ∧ (State.enterJoining _).ju.join = _ ∧
      (State.enterJoining _).patrol = _
    rw [entered, sets]
    exact ⟨rfl, rfl, rfl, rfl⟩
  obtain ⟨image, mode, join, patrol⟩ := entry
  have strapped : s.strap = strap := by rw [hs]
  obtain ⟨r, hr, hb⟩ := Option.map_eq_some_iff.mp run
  obtain ⟨bay, role⟩ := Prod.mk.inj hb
  rw [strapped, valid]
  exact ⟨_, rfl, image, mode, join, patrol, states, by rw [drive], by rw [hr, ← bay]; rfl, by rw [hr, ← role]; rfl,
    by rw [drive]⟩

end Sys2Proof.Safety
end

section
/-! SUPPORT. Attempts: how an attempt of the post ends, and what the ends of its frames do to the Claim Engine and the Join
Unit (R38, R42, R44, R62, R80, R85, R86). -/

namespace Sys2Proof.Machine

open Sys2Proof.Safety

/-! ### Entries changed and removed -/

/-- R25: the entry for a token changed by `f`, which keeps its place. -/
theorem State.updateEntry_change (s : State) (t : TokenId) (f : Entry → Entry) :
    s.updateEntry t (fun e => some (f e)) =
      { s with table := s.table.map (fun slot => slot.map (fun e => if e.token = t then f e else e)) } := by
  unfold State.updateEntry
  rw [updateTable_eq]
  refine congrArg s.setTable (List.map_congr_left (fun slot _ => ?_))
  cases slot with
  | none => rfl
  | some e => by_cases h : e.token = t <;> simp [h]

/-- R25: the entry for a token removed where it has this status. -/
theorem State.updateEntry_remove (s : State) (t : TokenId) (x : EntryStatus) :
    s.updateEntry t (fun e => if e.status = x then none else some e) =
      { s with table := s.table.map (fun slot => slot.filter (fun e => !(e.token == t && e.status == x))) } := by
  unfold State.updateEntry
  rw [updateTable_eq]
  refine congrArg s.setTable (List.map_congr_left (fun slot _ => ?_))
  cases slot with
  | none => rfl
  | some e =>
    rw [Option.filter_some]
    by_cases ht : e.token = t
    · by_cases hs : e.status = x
      · simp [ht, hs]
      · simp [ht, hs]
    · simp [ht]

/-- The transaction in this phase holds the claim for its token. -/
theorem State.claims_of {s u : State} {phase : TapPhase} {tok : Token} (same : u.tap = s.tap) (hp : s.tap.phase = phase)
    (ht : s.tap.token = some tok) : u.claims phase tok.id = true := by
  unfold State.claims
  rw [same, hp, ht]
  simp

theorem ite_both {α : Type} (p q : Prop) [Decidable p] [Decidable q] (a b : α) :
    (if p ∧ q then a else b) = if p then if q then a else b else b := by
  by_cases first : p
  · simp only [first, true_and, if_true]
  · simp only [first, false_and, if_false]

/-- R62: at the echo of the CLAIM of a transaction in CLAIMING. -/
theorem State.claimEchoed_of {s : State} {tok : Token} (hp : s.tap.phase = .claiming) (ht : s.tap.token = some tok) :
    s.claimEchoed tok.id = { s with
      table := s.table.map (fun slot => slot.map (fun e =>
        if e.token = tok.id ∧ e.status = .ownPending then { e with status := .ownSettling } else e))
      ce := { s.ce with settle := some ⟨s.cfg.settleMs, tok.id⟩ }
      tap := { s.tap with phase := .settling } } := by
  unfold State.claimEchoed
  dsimp only
  rw [State.updateEntry_change]
  refine (if_pos (State.claims_of (s := s) rfl hp ht)).trans ?_
  simp only [ite_both]
  rfl

/-! ### A frame queued -/

/-- R46, R47: a frame joins a protocol queue that has room behind those of its own or a lower rank. -/
theorem State.queueProtocol_room {s : State} (f : Frame) (h : s.rlc.protocol.length < 12) :
    s.queueProtocol f = { s with rlc := { s.rlc with
      protocol := s.rlc.protocol.take (rankPlace f.kind s.rlc.protocol) ++
        ⟨f, 0⟩ :: s.rlc.protocol.drop (rankPlace f.kind s.rlc.protocol)
      attempt := s.rlc.attempt.map (Attempt.gained .protocol (rankPlace f.kind s.rlc.protocol)) } } := if_pos h

theorem State.queueProtocol_length {s : State} (f : Frame) (h : s.rlc.protocol.length < 12) :
    (s.queueProtocol f).rlc.protocol.length = s.rlc.protocol.length + 1 := by
  rw [State.queueProtocol_room f h]
  simp only [List.length_append, List.length_cons, List.length_take, List.length_drop]
  omega

/-- R83, R86: a dump begun with room in the protocol queue. -/
theorem State.beginDump_room {s : State} (h : s.rlc.protocol.length < 12) :
    (⟨.dump, 0⟩ : Queued) ∈ s.beginDump.rlc.protocol ∧ s.beginDump.table = s.table ∧ s.beginDump.ju = { s.ju with
      dump := .dumping, stagger := none, owed := false, cursor := .index 0, nextSeq := 0, framesSent := 0,
      entriesSent := 0 } := by
  refine ⟨State.queueProtocol_mem _ _ h, ?_⟩
  obtain ⟨_, _, e⟩ := State.queueProtocol_sets (s.setJu { s.ju with
    dump := .dumping, stagger := none, owed := false, cursor := .index 0, nextSeq := 0, framesSent := 0,
    entriesSent := 0 }) .dump
  exact ⟨(congrArg State.table e :), (congrArg State.ju e :)⟩

@[simp] theorem State.beginDump_restartDue (s : State) : s.beginDump.restartDue = s.restartDue := by
  unfold State.beginDump
  obtain ⟨_, _, e⟩ := State.queueProtocol_sets (s.setJu _) .dump
  rw [e]
  rfl

/-! ### The end of an attempt -/

theorem State.afterAttempt_undue {s : State} (h : s.restartDue = false) : s.afterAttempt = s := by
  unfold State.afterAttempt
  rw [h]
  rfl

theorem modify_of_getElem? {α : Type} {l : List α} {i : Nat} {x : α} (f : α → α) (there : l[i]? = some x) :
    l.modify i f = l.set i (f x) := by
  obtain ⟨inside, is⟩ := List.getElem?_eq_some_iff.mp there
  refine List.ext_getElem? fun j => ?_
  rw [List.getElem?_modify, List.getElem?_set]
  by_cases here : i = j
  · subst here
    simp [inside, is]
  · simp [here]

/-- R44: a vetoed frame stays at its place with its count raised. -/
theorem State.countVeto_eq {s : State} {a : Attempt} {f : Frame} {v : Nat}
    (h : (s.side a.side)[a.place]? = some ⟨f, v⟩) : s.countVeto a = { s with rlc := { s.rlc with
      protocol := if a.side = .protocol then s.rlc.protocol.set a.place ⟨f, v + 1⟩ else s.rlc.protocol
      service := if a.side = .service then s.rlc.service.set a.place ⟨f, v + 1⟩ else s.rlc.service
      attempt := none } } := by
  unfold State.countVeto
  rw [modify_of_getElem? _ h]
  obtain ⟨_, side, _, _, _⟩ := a
  cases side <;> rfl

/-- R38, R45: an attempt that loses with its frame removed drops it. -/
theorem State.dropAttempt_eq (s : State) (a : Attempt) :
    s.dropAttempt a = { s with rlc := { (sent a s).rlc with vetoDriven := s.rlc.vetoDriven } } := by
  obtain ⟨_, side, _, _, _⟩ := a
  cases side <;> rfl

/-- R39: the post when its frame's veto slot has ended, the frame's own end still to come. -/
def State.slotEnded (s : State) (readback : Bool) : State :=
  (if readback then s.raise .line .duplicateAddress else s).setVeto readback

theorem exec_ownVetoed {s : State} {a : Attempt} {f : Frame} {v : Nat} (h : Sending f v a s) (readback : Bool) :
    exec (.frameVetoed (.own readback)) s =
      .next ((s.slotEnded readback).vetoAttempt a ⟨f, v⟩).afterAttempt := by
  obtain ⟨attempt, phase, frame⟩ := h
  change Host.Outcome.next (s.ownVetoed readback) = _
  unfold State.ownVetoed State.attemptFrame
  rw [attempt]
  dsimp only
  rw [phase, frame]
  rfl

/-- R39: the slot's end raises at most DUPLICATE ADDRESS, which adds at most a NOTICE to the service queue. -/
theorem State.slotEnded_sets (s : State) (readback : Bool) : ∃ aq l, s.slotEnded readback = { s with
    aq := aq, rlc := { s.rlc with service := s.rlc.service ++ l, vetoDriven := readback } } := by
  unfold State.slotEnded
  cases readback with
  | false => exact ⟨s.aq, [], by rw [List.append_nil]; rfl⟩
  | true =>
    obtain ⟨aq, q, e⟩ := s.raise_sets .line .duplicateAddress
    obtain ⟨l, grown⟩ := s.raise_service .line .duplicateAddress
    rw [e] at grown
    refine ⟨aq, l, ?_⟩
    rw [if_pos rfl, e]
    exact congrArg (fun x => { s with aq := aq, rlc := { s.rlc with service := x, vetoDriven := true } }) grown

/-- R39: with a readback mismatch DUPLICATE ADDRESS is recorded. -/
theorem State.slotEnded_records {s : State} (working : s.mode.working = true) (unmasked : s.masked .line = false) :
    (Source.line, Code.duplicateAddress) ∈ attentionPairs (s.slotEnded true) :=
  s.raise_records .line .duplicateAddress working unmasked

/-- The frame being sent stands at its place after the slot's end too. -/
theorem State.slotEnded_side {s : State} {side : QueueSide} {i : Nat} {q : Queued} (readback : Bool)
    (h : (s.side side)[i]? = some q) : ((s.slotEnded readback).side side)[i]? = some q := by
  obtain ⟨_, l, e⟩ := s.slotEnded_sets readback
  rw [e]
  cases side with
  | protocol => exact h
  | service => exact (List.getElem?_append_left (List.getElem?_eq_some_iff.mp h).1).trans h

/-- R45: dropping the frame after the slot's end leaves what waited before it in the service queue in front. -/
theorem State.slotEnded_dropped {s : State} {a : Attempt} {q : Queued} (readback : Bool)
    (h : (s.side a.side)[a.place]? = some q) : ∃ aq v, (s.slotEnded readback).dropAttempt a = { s with
      aq := aq, rlc := { (sent a s).rlc with service := v, vetoDriven := readback } } ∧
      (sent a s).rlc.service <+: v ∧
      attentionPairs ((s.slotEnded readback).dropAttempt a) = attentionPairs (s.slotEnded readback) := by
  obtain ⟨aq, l, e⟩ := s.slotEnded_sets readback
  rw [State.dropAttempt_eq, e]
  refine ⟨aq, _, rfl, ?_, rfl⟩
  obtain ⟨phase, side, place, settled, removed⟩ := a
  cases side with
  | protocol => exact List.prefix_append _ _
  | service =>
    have inside : place < s.rlc.service.length := (List.getElem?_eq_some_iff.mp h).1
    change s.rlc.service.eraseIdx place <+: (s.rlc.service ++ l).eraseIdx place
    rw [List.eraseIdx_append_of_lt_length inside]
    exact List.prefix_append _ _

end Sys2Proof.Machine

namespace Sys2Proof.Safety

open Sys2Proof.Machine

/-! ### Won, lost and vetoed -/

/-- R38: the attempt in its arbitration field. -/
theorem arbitration {s : State} {a : Attempt} (attempt : s.rlc.attempt = some a) (arbitrating : a.phase = .arbitrating) :
    exec .endOfArbitrationField s = .next (s.setAttempt (some { a with phase := .sending })) ∧
      exec .arbitrationLost s = .next (s.loseAttempt a).afterAttempt := by
  constructor
  · change execEndOfArbitrationField s = _
    unfold execEndOfArbitrationField
    rw [attempt]
    exact congrArg Host.Outcome.next (if_pos arbitrating)
  · change execArbitrationLost s = _
    unfold execArbitrationLost
    rw [attempt]
    exact congrArg Host.Outcome.next (if_pos arbitrating)

/-- R38, R45: the two ways an attempt loses, no restart being due. -/
theorem arbitrationLost_of {s : State} {a : Attempt} (attempt : s.rlc.attempt = some a)
    (arbitrating : a.phase = .arbitrating) (undue : s.restartDue = false) :
    (a.removed = false → exec .arbitrationLost s = .next { s with rlc := { s.rlc with attempt := none } }) ∧
      (a.removed = true → exec .arbitrationLost s =
        .next { s with rlc := { (sent a s).rlc with vetoDriven := s.rlc.vetoDriven } }) := by
  have lost : (s.loseAttempt a).afterAttempt = s.loseAttempt a := by
    refine State.afterAttempt_undue ?_
    unfold State.loseAttempt
    split
    · rw [State.dropAttempt_eq]; exact undue
    · exact undue
  rw [(arbitration attempt arbitrating).2, lost]
  unfold State.loseAttempt
  refine ⟨fun stays => by rw [stays]; rfl, fun removed => ?_⟩
  rw [if_pos removed, State.dropAttempt_eq]

/-- R39, R44: a frame vetoed at a count below 7. -/
theorem vetoed_below {s : State} {a : Attempt} {f : Frame} {v : Nat} (h : Sending f v a s) (stays : a.removed = false)
    (below : v < 7) (undue : s.restartDue = false) (readback : Bool) :
    exec (.frameVetoed (.own readback)) s = .next ((s.slotEnded readback).countVeto a) := by
  rw [exec_ownVetoed h]
  have counted : (s.slotEnded readback).vetoAttempt a ⟨f, v⟩ = (s.slotEnded readback).countVeto a := by
    unfold State.vetoAttempt
    rw [stays]
    exact if_pos below
  obtain ⟨_, _, _⟩ := h
  obtain ⟨_, _, e⟩ := s.slotEnded_sets readback
  rw [counted, State.afterAttempt_undue]
  obtain ⟨_, _, c⟩ := (s.slotEnded readback).countVeto_sets a
  rw [c, e]
  exact undue

/-- R45: a frame vetoed that its producer has removed meanwhile. -/
theorem vetoed_removed {s : State} {a : Attempt} {f : Frame} {v : Nat} (h : Sending f v a s) (removed : a.removed = true)
    (undue : s.restartDue = false) (readback : Bool) :
    exec (.frameVetoed (.own readback)) s = .next ((s.slotEnded readback).dropAttempt a) := by
  rw [exec_ownVetoed h]
  have dropped : (s.slotEnded readback).vetoAttempt a ⟨f, v⟩ = (s.slotEnded readback).dropAttempt a := if_pos removed
  obtain ⟨_, _, e⟩ := s.slotEnded_sets readback
  rw [dropped, State.afterAttempt_undue]
  rw [State.dropAttempt_eq, e]
  exact undue

/-- R39, R44: what a veto below 7 with a readback mismatch leaves. -/
theorem vetoed_mismatch {s : State} {a : Attempt} {f : Frame} {v : Nat} (h : Sending f v a s) :
    (((s.slotEnded true).countVeto a).side a.side)[a.place]? = some ⟨f, v + 1⟩ ∧
      ((s.slotEnded true).countVeto a).rlc.protocol.length = s.rlc.protocol.length ∧
      ((s.slotEnded true).countVeto a).rlc.attempt = none ∧ ((s.slotEnded true).countVeto a).rlc.vetoDriven = true ∧
      ((s.slotEnded true).countVeto a).table = s.table ∧ ((s.slotEnded true).countVeto a).bays = s.bays ∧
      ((s.slotEnded true).countVeto a).tap = s.tap ∧
      attentionPairs ((s.slotEnded true).countVeto a) = attentionPairs (s.slotEnded true) := by
  obtain ⟨_, _, frame⟩ := h
  have stands := State.slotEnded_side true frame
  have place := (List.getElem?_eq_some_iff.mp stands).1
  obtain ⟨aq, l, e⟩ := s.slotEnded_sets true
  rw [State.countVeto_eq stands]
  refine ⟨?_, ?_, rfl, by rw [e], by rw [e], by rw [e], by rw [e], rfl⟩
  · obtain ⟨_, side, _, _, _⟩ := a
    cases side with
    | protocol => exact List.getElem?_set_self place
    | service => exact List.getElem?_set_self place
  · dsimp only
    rw [e]
    split
    · exact List.length_set
    · rfl

/-- Settles O7: the arbitration (`arbitration`, `arbitrationLost_of`), the veto that leaves the frame (`vetoed_below`) and the one
of a removed frame (`vetoed_removed`); the other two events change the veto slot or nothing. -/
theorem attemptsAreWonLostOrVetoed : Obligations.AttemptsAreWonLostOrVetoed := by
  refine ⟨fun s a attempt arbitrating => ⟨(arbitration attempt arbitrating).1,
      fun stays undue => (arbitrationLost_of attempt arbitrating undue).1 stays,
      fun removed undue => (arbitrationLost_of attempt arbitrating undue).2 removed⟩,
    fun s a f v sending stays below undue => ⟨?plain, ?mismatch⟩,
    fun s a f v sending removed undue => ⟨?gone, ?goneMismatch⟩, fun s levels mode idle => ?other, fun _ => rfl⟩
  case plain =>
    rw [vetoed_below sending stays below undue false, State.countVeto_eq (State.slotEnded_side false sending.2.2)]
    rfl
  case mismatch =>
    obtain ⟨frame, length, attempt, veto, table, bays, tap, pairs⟩ := vetoed_mismatch sending
    refine ⟨_, vetoed_below sending stays below undue true, frame, length, attempt, veto, table, bays, tap, fun working unmasked => ?_⟩
    rw [pairs]
    exact State.slotEnded_records working unmasked
  case gone =>
    rw [vetoed_removed sending removed undue false]
    exact congrArg Host.Outcome.next (s.dropAttempt_sent a)
  case goneMismatch =>
    obtain ⟨aq, q, e, grown, pairs⟩ := State.slotEnded_dropped true sending.2.2
    refine ⟨_, vetoed_removed sending removed undue true, by rw [e], by rw [e]; exact grown, by rw [e]; rfl, by rw [e], by rw [e],
      by rw [e], by rw [e], by rw [e], by rw [e], by rw [e], fun working unmasked => ?_⟩
    rw [pairs]
    exact State.slotEnded_records working unmasked
  case other =>
    refine congrArg Host.Outcome.next (if_pos ?_)
    unfold State.hearing
    rw [idle]
    simpa using mode

/-! ### Echoes -/

/-- Settles O9: each echo is its producer's effect on the state without the frame (`State.echo_sent`). -/
theorem claimLapseObjectAndJoinEchoes : Obligations.ClaimLapseObjectAndJoinEchoes := by
  intro s a tok u b x c r o v undue
  refine ⟨fun sending => ?lapse, fun sending => ?object, fun sending announcing => ?join, fun sending claiming token => ?claim⟩
  case lapse => exact congrArg Host.Outcome.next (State.echo_sent sending .lapse rfl lapseEchoEffect undue)
  case object => exact congrArg Host.Outcome.next (State.echo_sent sending .object rfl objectEchoEffect undue)
  case join =>
    have effect : joinEchoEffect .join a.settled (sent a s) = { sent a s with ju := { s.ju with join := .listening } } :=
      if_pos announcing
    refine congrArg Host.Outcome.next ((State.echo_sent sending .join rfl joinEchoEffect ?_).trans effect)
    rw [effect]
    exact undue
  case claim =>
    have effect : claimEchoEffect (.claim tok.id b x) a.settled (sent a s) = _ := State.claimEchoed_of claiming token
    refine congrArg Host.Outcome.next ((State.echo_sent sending .claim rfl claimEchoEffect ?_).trans effect)
    rw [effect]
    exact undue

/-- R85: what the echo of a DUMP does. -/
theorem dumpEchoEffect_of {s : State} {seq : BitVec 6} {entries : List DumpEntry} {next : Cursor} (f : Frame)
    (room : s.rlc.protocol.length < 12) :
    (dumpEchoEffect f (.dump seq entries next) s).restartDue = s.restartDue ∧
    (dumpEchoEffect f (.dump seq entries next) s).ju = { s.ju with
      framesSent := s.ju.framesSent + 1, entriesSent := s.ju.entriesSent + entries.length, cursor := next,
      nextSeq := s.ju.nextSeq + 1 } ∧
    (⟨if next = .atEnd then .dumpEnd else .dump, 0⟩ : Queued) ∈ (dumpEchoEffect f (.dump seq entries next) s).rlc.protocol ∧
    (dumpEchoEffect f (.dump seq entries next) s).table = s.table := by
  have queued := State.queueProtocol_room (s := s.setJu { s.ju with
    framesSent := s.ju.framesSent + 1, entriesSent := s.ju.entriesSent + entries.length, cursor := next,
    nextSeq := s.ju.nextSeq + 1 }) (if next = .atEnd then .dumpEnd else .dump) room
  exact ⟨(congrArg State.restartDue queued :), (congrArg State.ju queued :), State.queueProtocol_mem _ _ room,
    (congrArg State.table queued :)⟩

/-- R42: a protocol frame sent leaves the queue no longer than it was. -/
theorem sent_protocol_length (a : Attempt) (s : State) : (sent a s).rlc.protocol.length ≤ s.rlc.protocol.length := by
  change (if a.side = .protocol then s.rlc.protocol.eraseIdx a.place else s.rlc.protocol).length ≤ _
  split
  · exact (List.eraseIdx_sublist ..).length_le
  · exact Nat.le_refl _

/-- Settles O10: the echo of a DUMP is `dumpEchoEffect_of`; that of a DUMP-END ends the dump, or begins the one owed
(`State.beginDump_room`). -/
theorem dumpAndDumpEndEchoes : Obligations.DumpAndDumpEndEchoes := by
  intro s a v seq entries next undue short _
  have room : (sent a s).rlc.protocol.length < 12 := by
    have := sent_protocol_length a s
    omega
  refine ⟨fun sending settled => ?dump, fun sending => ⟨fun notOwed => ?ends, fun owed => ?fresh⟩⟩
  case dump =>
    obtain ⟨due, ju, queued, table⟩ := dumpEchoEffect_of (seq := seq) (entries := entries) (next := next) .dump room
    rw [← settled] at due ju queued table
    exact ⟨_, congrArg Host.Outcome.next (State.echo_sent sending .dump rfl dumpEchoEffect (due.trans undue)), ju, queued, table⟩
  case ends =>
    have effect : dumpEndEchoEffect .dumpEnd a.settled (sent a s) = { sent a s with ju := { s.ju with dump := .idle } } :=
      if_neg (by rw [show (sent a s).ju.owed = false from notOwed]; decide)
    refine congrArg Host.Outcome.next ((State.echo_sent sending .dumpEnd rfl dumpEndEchoEffect ?_).trans effect)
    rw [effect]
    exact undue
  case fresh =>
    have effect : dumpEndEchoEffect .dumpEnd a.settled (sent a s) = (sent a s).beginDump := if_pos owed
    obtain ⟨queued, _, ju⟩ := State.beginDump_room room
    refine ⟨_, congrArg Host.Outcome.next ((State.echo_sent sending .dumpEnd rfl dumpEndEchoEffect ?_).trans effect), queued, ju⟩
    rw [effect]
    exact (State.beginDump_restartDue _).trans undue

end Sys2Proof.Safety
end

section
/-! SUPPORT. AttentionMoves: the cases of a raised code, of an offer and of a promotion, and the commands that show them (R161 to
R164, R167). -/

namespace Sys2Proof.Machine

open Sys2Proof.Safety

/-! ### Places in a list -/

/-- Two places of a list that agree in what is named once there are one place. -/
theorem place_unique {α β : Type} {l : List α} {g : α → β} (once : (l.map g).Nodup) {i j : Nat} {x y : α}
    (hx : l[i]? = some x) (hy : l[j]? = some y) (same : g x = g y) : i = j := by
  have inside : i < (l.map g).length := by
    rw [List.length_map]
    exact (List.getElem?_eq_some_iff.mp hx).1
  refine (List.getElem?_inj inside once).mp ?_
  rw [List.getElem?_map, List.getElem?_map, hx, hy, Option.map_some, Option.map_some, same]

/-- Changing what `p` names, at one place only, replaces that place. -/
theorem map_if_eq_set {α : Type} {p : α → Bool} (f : α → α) {l : List α} {i : Nat} {x : α} (hx : l[i]? = some x)
    (named : p x = true) (only : ∀ (j : Nat) (y : α), l[j]? = some y → p y = true → j = i) :
    l.map (fun y => if p y then f y else y) = l.set i (f x) := by
  refine List.ext_getElem? fun j => ?_
  rw [List.getElem?_map, List.getElem?_set]
  by_cases here : i = j
  · subst here
    rw [if_pos rfl, if_pos (List.getElem?_eq_some_iff.mp hx).1, hx, Option.map_some, if_pos named]
  · rw [if_neg here]
    cases at' : l[j]? with
    | none => rfl
    | some y =>
      rw [Option.map_some, if_neg]
      exact fun hy => here (only j y at' hy).symm

/-! ### A code raised -/

section

variable {s : State} {src : Source} {code : Code}

/-- R160, R161: nothing is recorded in STARTING and CONFIG-FAULT, and nothing of a masked source. -/
theorem State.raise_unrecorded (h : s.mode.working = false ∨ s.masked src = true) : s.raise src code = s := by
  refine if_pos ?_
  rcases h with h | h
  · rw [h]; rfl
  · rw [h]; exact Bool.or_true _

theorem attentionPairs_not_mem (h : (src, code) ∉ attentionPairs s) :
    s.aq.queue.any (fun e => e.att.isPair src code) = false ∧ s.aq.waiting.any (fun a => a.isPair src code) = false := by
  constructor
  · refine List.any_eq_false.mpr fun e mem pair => h ?_
    exact List.mem_map.mpr ⟨e.att, List.mem_append_left _ (List.mem_map_of_mem mem), Attention.isPair_iff.mp pair⟩
  · refine List.any_eq_false.mpr fun a mem pair => h ?_
    exact List.mem_map.mpr ⟨a, List.mem_append_right _ mem, Attention.isPair_iff.mp pair⟩

section

variable (working : s.mode.working = true) (unmasked : s.masked src = false)

include working unmasked

theorem State.raise_tests : ¬(!s.mode.working || s.masked src) = true := by
  rw [working, unmasked]
  decide

/-- R161: the pair of an entry is counted there. -/
theorem State.raise_counted {i : Nat} {e : QueuedAttention} (law : AttentionLaw s) (place : s.aq.queue[i]? = some e)
    (pair : (e.att.source, e.att.code) = (src, code)) :
    s.raise src code = s.setEntries (s.aq.queue.set i { e with att := e.att.again }) := by
  obtain ⟨_, once, _⟩ := law
  have named := Attention.isPair_iff.mpr pair
  have found : s.aq.queue.any (fun e => e.att.isPair src code) = true :=
    List.any_eq_true.mpr ⟨e, List.mem_of_getElem? place, named⟩
  have entries : (s.aq.queue.map (fun e => (e.att.source, e.att.code))).Nodup := by
    refine List.Nodup.sublist ?_ once
    unfold attentionPairs
    rw [List.map_append, List.map_map]
    exact List.sublist_append_left ..
  unfold State.raise
  rw [if_neg (State.raise_tests working unmasked), if_pos found]
  refine congrArg s.setEntries (map_if_eq_set (p := fun e => e.att.isPair src code)
    (fun e => { e with att := e.att.again }) place named fun j y hy hp => ?_)
  exact place_unique entries hy place ((Attention.isPair_iff.mp hp).trans pair.symm)

/-- R161: the pair of a waiting record is counted there. -/
theorem State.raise_counted_waiting {i : Nat} {a : Attention} (law : AttentionLaw s) (place : s.aq.waiting[i]? = some a)
    (pair : (a.source, a.code) = (src, code)) :
    s.raise src code = s.setAq { s.aq with waiting := s.aq.waiting.set i a.again } := by
  obtain ⟨_, once, _⟩ := law
  unfold attentionPairs at once
  rw [List.map_append, List.nodup_append] at once
  obtain ⟨_, records, apart⟩ := once
  have named := Attention.isPair_iff.mpr pair
  have found : s.aq.waiting.any (fun a => a.isPair src code) = true :=
    List.any_eq_true.mpr ⟨a, List.mem_of_getElem? place, named⟩
  have absent : ¬s.aq.queue.any (fun e => e.att.isPair src code) = true := fun h => by
    obtain ⟨e, mem, same⟩ := List.any_eq_true.mp h
    refine apart _ (List.mem_map_of_mem (List.mem_map_of_mem mem)) _
      (List.mem_map_of_mem (List.mem_of_getElem? place)) ?_
    exact (Attention.isPair_iff.mp same).trans pair.symm
  unfold State.raise
  rw [if_neg (State.raise_tests working unmasked), if_neg absent, if_pos found]
  refine congrArg (fun w => s.setAq { s.aq with waiting := w }) (map_if_eq_set (p := fun a => a.isPair src code)
    Attention.again place named fun j y hy hp => ?_)
  exact place_unique records hy place ((Attention.isPair_iff.mp hp).trans pair.symm)

/-- R161: a pair found nowhere enters a queue with room. -/
theorem State.raise_enters (new : (src, code) ∉ attentionPairs s) (room : s.aq.queue.length < 16) :
    s.raise src code = s.enterAttention ⟨src, code, s.ssu.stamp, 1⟩ := by
  obtain ⟨entries, records⟩ := attentionPairs_not_mem new
  unfold State.raise
  rw [if_neg (State.raise_tests working unmasked), entries, records]
  exact if_pos room

/-- R161: a pair found nowhere waits where the queue is full. -/
theorem State.raise_waits (new : (src, code) ∉ attentionPairs s) (full : 16 ≤ s.aq.queue.length) :
    s.raise src code = s.setAq { s.aq with waiting := s.aq.waiting ++ [⟨src, code, s.ssu.stamp, 1⟩] } := by
  obtain ⟨entries, records⟩ := attentionPairs_not_mem new
  unfold State.raise
  rw [if_neg (State.raise_tests working unmasked), entries, records]
  exact if_neg (Nat.not_lt.mpr full)

end

end

/-! ### Entries that enter and leave -/

/-- R161, R162: an entry takes the tail. -/
theorem State.enterAttention_aq (s : State) (a : Attention) :
    (s.enterAttention a).aq.queue.map QueuedAttention.att = s.aq.queue.map QueuedAttention.att ++ [a] ∧
      (s.enterAttention a).aq.waiting = s.aq.waiting := by
  obtain ⟨entries, waiting, _⟩ := (s.setEntries (s.aq.queue ++ [⟨a, false⟩])).offerNotice_aq
  exact ⟨entries.trans List.map_append, waiting⟩

/-- R163: the offer of the oldest entry, its conditions met. -/
theorem State.offerNotice_offers {s : State} {e : QueuedAttention} {rest : List QueuedAttention}
    (oldest : s.aq.queue = e :: rest) (working : s.mode.working = true) (notices : s.cfg.notices = true)
    (heard : s.aq.hush = false) (none' : ∀ q ∈ s.rlc.service, q.frame.kind ≠ .notice) (room : s.rlc.service.length < 4) :
    s.offerNotice = { s with
      rlc := { s.rlc with service := s.rlc.service ++ [⟨.notice e.att, 0⟩] }
      aq := { s.aq with queue := { e with noticed := true } :: rest } } := by
  have unheld : holdsKind .notice s.rlc.service = false :=
    List.any_eq_false.mpr fun q mem kind => none' q mem (eq_of_beq kind)
  have offers : s.offersNotice = true := by
    unfold State.offersNotice
    rw [working, notices, heard, unheld]
    rfl
  have space : s.serviceRoom = true := decide_eq_true room
  unfold State.offerNotice State.queueService
  rw [oldest]
  dsimp only
  rw [offers, space]
  rfl

/-- R162: with nothing waiting no record enters. -/
theorem State.promote_idle {s : State} (h : s.aq.waiting = []) : s.promote = s := by
  unfold State.promote
  rw [h]
  exact ite_self _

/-- R162: the highest waiting record enters a queue with room. -/
theorem State.promote_highest {s : State} {i : Nat} {w : Attention} (room : s.aq.queue.length < 16)
    (once : (s.aq.waiting.map (fun a => (a.source, a.code))).Nodup) (h : Highest s.aq.waiting i w) :
    s.promote.aq.queue.map QueuedAttention.att = s.aq.queue.map QueuedAttention.att ++ [w] ∧
      s.promote.aq.waiting = s.aq.waiting.eraseIdx i := by
  unfold State.promote
  rw [if_pos (show s.aq.queue.length < Config.attentionCap from room), highest_eq _ i w h]
  dsimp only
  rw [filter_isPair _ i w once h.1]
  exact State.enterAttention_aq _ w

/-- R164: where no entry is marked the filter keeps all. -/
theorem filter_unmarked {l : List QueuedAttention} (h : l.any (fun e => e.noticed) = false) :
    l.filter (fun e => !e.noticed) = l := by
  refine List.filter_eq_self.mpr fun e mem => ?_
  rw [Bool.not_eq_true', ← Bool.not_eq_true]
  exact List.any_eq_false.mp h e mem

/-- R164, R167: an entry that leaves with nothing waiting. -/
theorem State.left_idle {s : State} (q : List QueuedAttention) (h : s.aq.waiting = []) :
    ((s.setEntries q).promote).offerNotice.aq.waiting = [] ∧
      ((s.setEntries q).promote).offerNotice.aq.queue.map QueuedAttention.att = q.map QueuedAttention.att := by
  rw [State.promote_idle (s := s.setEntries q) h]
  obtain ⟨entries, waiting, _⟩ := (s.setEntries q).offerNotice_aq
  exact ⟨waiting.trans h, entries⟩

/-- R162: an entry that leaves lets the highest waiting record in. -/
theorem State.left_highest {s : State} {q : List QueuedAttention} {i : Nat} {w : Attention} (room : q.length < 16)
    (once : (s.aq.waiting.map (fun a => (a.source, a.code))).Nodup) (h : Highest s.aq.waiting i w) :
    ((s.setEntries q).promote).offerNotice.aq.waiting = s.aq.waiting.eraseIdx i ∧
      ((s.setEntries q).promote).offerNotice.aq.queue.map QueuedAttention.att = q.map QueuedAttention.att ++ [w] := by
  obtain ⟨entries, waiting⟩ := State.promote_highest (s := s.setEntries q) room once h
  obtain ⟨offered, kept, _⟩ := (s.setEntries q).promote.offerNotice_aq
  exact ⟨kept.trans waiting, offered.trans entries⟩

@[simp] theorem State.noticeSent_restartDue (s : State) : s.noticeSent.restartDue = s.restartDue := by
  obtain ⟨_, _, e⟩ := s.noticeSent_sets
  rw [e]

@[simp] theorem State.takeOldest_restartDue (s : State) : s.takeOldest.restartDue = s.restartDue := by
  obtain ⟨_, _, e⟩ := s.takeOldest_sets
  rw [e]

end Sys2Proof.Machine

namespace Sys2Proof.Safety

open Sys2Proof.Machine

/-- R164: the echo of a NOTICE. -/
theorem exec_noticeEcho {s : State} {a : Attempt} {v : Nat} {n : Attention} (h : Sending (.notice n) v a s)
    (undue : s.restartDue = false) : exec .noticeEcho s = .next (sent a s).noticeSent :=
  congrArg Host.Outcome.next (State.echo_sent h .notice rfl noticeEchoEffect ((State.noticeSent_restartDue _).trans undue))

/-- R167: the echo of a STATUS-REPLY. -/
theorem exec_statusReplyEcho {s : State} {a : Attempt} {v : Nat} {q : Addr} {take : Bool}
    (h : Sending (.statusReply q take) v a s) (undue : s.restartDue = false) :
    exec .statusReplyEcho s = .next (if take && a.settled.carriesEntry then (sent a s).takeOldest else (sent a s).offerNotice) := by
  refine congrArg Host.Outcome.next (State.echo_sent h .statusReply rfl statusReplyEchoEffect ?_)
  change State.restartDue (if take && a.settled.carriesEntry then (sent a s).takeOldest else (sent a s).offerNotice) = false
  split
  · exact (State.takeOldest_restartDue _).trans undue
  · exact (State.offerNotice_restartDue _).trans undue

/-- Settles O13: what leaves the queue with nothing waiting is `State.left_idle`. -/
theorem noticeAndStatusReplyEchoes : Obligations.NoticeAndStatusReplyEchoes := by
  intro s a v n q take undue idle
  refine ⟨fun sending => ⟨_, exec_noticeEcho sending undue, ?notice⟩,
    fun sending => ⟨_, exec_statusReplyEcho sending undue, ?reply⟩⟩
  case notice =>
    unfold State.noticeSent
    split
    · exact (sent a s).left_idle _ idle
    · rename_i unmarked
      obtain ⟨entries, waiting, _⟩ := (sent a s).offerNotice_aq
      refine ⟨waiting.trans idle, entries.trans ?_⟩
      exact congrArg _ (filter_unmarked ((Bool.not_eq_true _).mp unmarked)).symm
  case reply =>
    by_cases taken : take = true ∧ a.settled.carriesEntry = true
    · rw [if_pos taken, if_pos (by rw [taken.1, taken.2]; rfl)]
      exact (sent a s).left_idle _ idle
    · rw [if_neg taken, if_neg (fun h => taken ((Bool.and_eq_true _ _).mp h))]
      obtain ⟨entries, waiting, _⟩ := (sent a s).offerNotice_aq
      exact ⟨waiting.trans idle, entries⟩

/-- R39: a frame with the post's own address. -/
theorem exec_ownAddress {s : State} (started : s.mode ≠ .starting) (idle : s.rlc.attempt = none) :
    exec .ownAddressFrameReceived s = .next ((heard s).raise .line .duplicateAddress) := by
  refine congrArg Host.Outcome.next (if_pos ?_)
  unfold State.hearing
  rw [idle]
  simpa using started

/-- R161, R163: the pair's entry alone in the queue is offered at once. -/
theorem enterAttention_first {s : State} (a : Attention) (empty : s.aq.queue = []) (working : s.mode.working = true)
    (notices : s.cfg.notices = true) (audible : s.aq.hush = false) (none' : ∀ q ∈ s.rlc.service, q.frame.kind ≠ .notice)
    (room : s.rlc.service.length < 4) : (s.enterAttention a).aq.queue.map QueuedAttention.noticed = [true] ∧
      (s.enterAttention a).rlc.service = s.rlc.service ++ [⟨.notice a, 0⟩] := by
  unfold State.enterAttention
  rw [empty, List.nil_append]
  rw [State.offerNotice_offers (s := s.setEntries [⟨a, false⟩]) rfl working notices audible none' room]
  exact ⟨rfl, rfl⟩

/-- Settles O14: the five cases of a raised code, and the entry that leaves with a record waiting (`State.left_highest`). -/
theorem raisedCodesAreCountedAndPromoted : Obligations.RaisedCodesAreCountedAndPromoted := by
  refine ⟨fun s started idle => ⟨fun h => ?unrecorded, fun working unmasked law =>
      ⟨fun i e place source code => ?counted, fun i a place source code => ?waiting,
        fun new => ⟨fun room => ?enters, fun full => ?waits⟩⟩⟩,
    fun s a v i w law undue high => ⟨fun q m body sending settled carried => ?reply, fun n sending marked => ?notice⟩⟩
  case unrecorded =>
    rw [exec_ownAddress started idle, State.raise_unrecorded]
    exact h.imp (fun fault => by rw [show (heard s).mode = .configFault from fault]; rfl) id
  case counted =>
    rw [exec_ownAddress started idle,
      State.raise_counted (s := heard s) working unmasked law place (by rw [source, code])]
    rfl
  case waiting =>
    rw [exec_ownAddress started idle,
      State.raise_counted_waiting (s := heard s) working unmasked law place (by rw [source, code])]
    rfl
  case enters =>
    obtain ⟨entries, waiting⟩ := (heard s).enterAttention_aq ⟨.line, .duplicateAddress, s.ssu.stamp, 1⟩
    rw [exec_ownAddress started idle, State.raise_enters (s := heard s) working unmasked new room]
    exact ⟨_, rfl, waiting, entries, fun empty notices audible none' space =>
      enterAttention_first (s := heard s) _ empty working notices audible none' space⟩
  case waits =>
    rw [exec_ownAddress started idle, State.raise_waits (s := heard s) working unmasked new full]
    rfl
  case reply =>
    obtain ⟨size, once, _⟩ := law
    unfold attentionPairs at once
    rw [List.map_append, List.nodup_append] at once
    have carries : a.settled.carriesEntry = true := by
      rw [settled]
      exact Option.isSome_iff_ne_none.mpr carried
    have room : s.aq.queue.tail.length < 16 := by
      rw [List.length_tail]
      omega
    refine ⟨_, exec_statusReplyEcho sending undue, ?_⟩
    rw [carries]
    exact State.left_highest (s := sent a s) room once.2.1 high
  case notice =>
    obtain ⟨size, once, _⟩ := law
    unfold attentionPairs at once
    rw [List.map_append, List.nodup_append] at once
    obtain ⟨e, mem, mark⟩ := marked
    have room : (s.aq.queue.filter (fun e => !e.noticed)).length < 16 := by
      have shorter : (s.aq.queue.filter (fun e => !e.noticed)).length < s.aq.queue.length :=
        List.length_filter_lt_length_iff_exists.mpr ⟨e, mem, by rw [mark]; decide⟩
      omega
    have left : (sent a s).noticeSent =
        (((sent a s).setEntries (s.aq.queue.filter (fun e => !e.noticed))).promote).offerNotice :=
      if_pos (List.any_eq_true.mpr ⟨e, mem, mark⟩)
    refine ⟨_, exec_noticeEcho sending undue, ?_⟩
    rw [left]
    exact State.left_highest (s := sent a s) room once.2.1 high

end Sys2Proof.Safety
end

section
/-! SUPPORT. Drops: what the eighth veto of a frame leaves, and what its producer does then (R39, R44, R75, R80, R87, R164). -/

namespace Sys2Proof.Machine

open Sys2Proof.Safety

/-! ### Marks and pairs -/

/-- R163: only the oldest entry of the queue can be offered. -/
def UnmarkedTail (s : State) : Prop := ∀ e ∈ s.aq.queue.tail, e.noticed = false

theorem UnmarkedTail.offerNotice {s : State} (h : UnmarkedTail s) : UnmarkedTail s.offerNotice := by
  unfold State.offerNotice
  split
  · exact h
  · rename_i e rest queue
    split
    · unfold UnmarkedTail at h
      rw [queue] at h
      exact h
    · exact h

/-- The marks of a queue that a raised code counts in. -/
theorem unmarkedTail_of_map {s t : State} (f : QueuedAttention → QueuedAttention) (h : UnmarkedTail s)
    (queue : t.aq.queue = s.aq.queue.map f) (same : ∀ e, (f e).noticed = e.noticed) : UnmarkedTail t := by
  intro e mem
  rw [queue, ← List.map_tail] at mem
  obtain ⟨x, old, rfl⟩ := List.mem_map.mp mem
  exact (same x).trans (h x old)

theorem UnmarkedTail.raise {s : State} (h : UnmarkedTail s) (src : Source) (code : Code) : UnmarkedTail (s.raise src code) := by
  unfold State.raise
  split
  · exact h
  · split
    · exact unmarkedTail_of_map _ h rfl fun e => by split <;> rfl
    · split
      · exact h
      · split
        · refine UnmarkedTail.offerNotice (s := s.setEntries _) fun e mem => ?_
          change e ∈ (s.aq.queue ++ [_]).tail at mem
          cases queue : s.aq.queue with
          | nil => rw [queue] at mem; cases mem
          | cons x rest =>
            rw [queue, List.cons_append, List.tail_cons] at mem
            rcases List.mem_append.mp mem with old | new
            · exact h e (by rw [queue]; exact old)
            · rw [List.mem_singleton.mp new]
        · exact h

theorem State.clearNoticed_pairs (s : State) : attentionPairs s.clearNoticed = attentionPairs s := by
  change ((s.aq.queue.map _).map QueuedAttention.att ++ s.aq.waiting).map _ = _
  rw [List.map_map]
  rfl

theorem State.clearNoticed_unmarked (s : State) : UnmarkedTail s.clearNoticed := by
  intro e mem
  obtain ⟨x, _, rfl⟩ := List.mem_map.mp (List.mem_of_mem_tail mem)
  rfl

/-! ### The drop before its producer's effect -/

/-- R39, R44: the post at the eighth veto of its frame: the frame out of its queue, and the drop raised. -/
def State.dropRaised (s : State) (a : Attempt) (f : Frame) (readback : Bool) : State :=
  (((s.slotEnded readback).dropAttempt a).noticeUnmarked f).raise .line f.dropCode

section

variable {s : State} {a : Attempt} {f : Frame} {q : Queued} (frame : (s.side a.side)[a.place]? = some q) (readback : Bool)

include frame

theorem State.dropRaised_sets : ∃ aq v, s.dropRaised a f readback = { s with
    aq := aq, rlc := { (sent a s).rlc with service := v, vetoDriven := readback } } ∧ (sent a s).rlc.service <+: v := by
  obtain ⟨aq, v, dropped, grown, _⟩ := State.slotEnded_dropped readback frame
  have unmarked : ∃ aq, ((s.slotEnded readback).dropAttempt a).noticeUnmarked f = { s with
      aq := aq, rlc := { (sent a s).rlc with service := v, vetoDriven := readback } } := by
    unfold State.noticeUnmarked
    rw [dropped]
    split
    · exact ⟨_, rfl⟩
    · exact ⟨_, rfl⟩
  obtain ⟨aq', marks⟩ := unmarked
  obtain ⟨aq'', v', raised⟩ := (((s.slotEnded readback).dropAttempt a).noticeUnmarked f).raise_sets .line f.dropCode
  obtain ⟨l, tail⟩ := (((s.slotEnded readback).dropAttempt a).noticeUnmarked f).raise_service .line f.dropCode
  unfold State.dropRaised
  refine ⟨aq'', v', by rw [raised, marks], ?_⟩
  rw [raised] at tail
  rw [show v' = _ from tail, marks]
  exact grown.trans (List.prefix_append _ _)

/-- R39, R44: the drop is recorded, and with a readback mismatch DUPLICATE ADDRESS beside it. -/
theorem State.dropRaised_records (working : s.mode.working = true) (unmasked : s.masked .line = false) :
    (Source.line, f.dropCode) ∈ attentionPairs (s.dropRaised a f readback) ∧
      (readback = true → (Source.line, Code.duplicateAddress) ∈ attentionPairs (s.dropRaised a f readback)) := by
  obtain ⟨aq, v, dropped, _, pairs⟩ := State.slotEnded_dropped readback frame
  have keeps : attentionPairs (((s.slotEnded readback).dropAttempt a).noticeUnmarked f) =
      attentionPairs (s.slotEnded readback) := by
    unfold State.noticeUnmarked
    split
    · exact (State.clearNoticed_pairs _).trans pairs
    · exact pairs
  have same : (((s.slotEnded readback).dropAttempt a).noticeUnmarked f).mode = s.mode ∧
      (((s.slotEnded readback).dropAttempt a).noticeUnmarked f).image = s.image := by
    unfold State.noticeUnmarked
    rw [dropped]
    split
    · exact ⟨rfl, rfl⟩
    · exact ⟨rfl, rfl⟩
  constructor
  · refine State.raise_records _ _ _ (by rw [same.1]; exact working) ?_
    unfold State.masked State.cfg at unmasked ⊢
    rw [same.2]
    exact unmasked
  · rintro rfl
    refine State.raise_keeps _ _ _ _ ?_
    rw [keeps]
    exact State.slotEnded_records working unmasked

end

/-- R164: at a NOTICE's drop no entry behind the oldest is marked. -/
theorem State.dropRaised_unmarked (s : State) (a : Attempt) {f : Frame} (readback : Bool) (notice : f.kind = .notice) :
    UnmarkedTail (s.dropRaised a f readback) := by
  refine UnmarkedTail.raise ?_ _ _
  unfold State.noticeUnmarked
  rw [if_pos notice]
  exact State.clearNoticed_unmarked _

/-! ### The producer's effect -/

/-- A producer's effect with no attempt in flight starts none and raises nothing. -/
theorem State.producerDropped_keeps {s : State} (f : Frame) (idle : s.rlc.attempt = none) :
    (s.producerDropped f).rlc.attempt = none ∧ (s.producerDropped f).rlc.vetoDriven = s.rlc.vetoDriven ∧
      attentionPairs (s.producerDropped f) = attentionPairs s := by
  have queued (u : State) (g : Frame) (still : u.rlc = s.rlc) (same : u.aq = s.aq) :
      (u.queueProtocol g).rlc.attempt = none ∧ (u.queueProtocol g).rlc.vetoDriven = s.rlc.vetoDriven ∧
        attentionPairs (u.queueProtocol g) = attentionPairs s := by
    unfold State.queueProtocol
    dsimp only
    split
    · refine ⟨?_, (congrArg RowLine.vetoDriven still :), attentionPairs_of_aq same⟩
      change Option.map _ u.rlc.attempt = none
      rw [still, idle]
      rfl
    · exact ⟨by rw [still]; exact idle, congrArg RowLine.vetoDriven still, attentionPairs_of_aq same⟩
  have offered : s.offerNotice.rlc.attempt = none ∧ s.offerNotice.rlc.vetoDriven = s.rlc.vetoDriven ∧
      attentionPairs s.offerNotice = attentionPairs s := by
    have pairs := s.offerNotice_pairs
    obtain ⟨_, _, e⟩ := s.offerNotice_sets
    exact ⟨by rw [e]; exact idle, by rw [e], pairs⟩
  have ended : s.endDump.rlc.attempt = none ∧ s.endDump.rlc.vetoDriven = s.rlc.vetoDriven ∧
      attentionPairs s.endDump = attentionPairs s := by
    unfold State.endDump
    split
    · exact queued _ _ rfl rfl
    · exact ⟨idle, rfl, rfl⟩
  unfold State.producerDropped
  cases f with
  | claim t b x =>
    obtain ⟨_, _, _, _, e⟩ := s.claimDropped_sets t
    dsimp only
    rw [e]
    exact ⟨idle, rfl, rfl⟩
  | join =>
    dsimp only
    unfold State.joinDropped
    split
    · exact queued _ _ rfl rfl
    · exact ⟨idle, rfl, rfl⟩
  | object t c o => exact ⟨idle, rfl, rfl⟩
  | lapse t o => exact ⟨idle, rfl, rfl⟩
  | dump => exact ended
  | dumpEnd => exact ended
  | logReady _ _ => exact offered
  | logData _ _ _ _ _ _ _ => exact offered
  | statusReply _ _ => exact offered
  | notice _ => exact offered

/-- R75: the CLAIM of a transaction in CLAIMING is dropped. -/
theorem State.claimDropped_of {s : State} {tok : Token} {b : Bay} (claiming : s.tap.phase = .claiming)
    (token : s.tap.token = some tok) (chosen : s.tap.chosen = some b) : ∃ bs l, s.claimDropped tok.id = { s with
      table := s.table.map (fun slot => slot.filter (fun e => !(e.token == tok.id && e.status == .ownPending)))
      bays := bs, tap := { s.tap with phase := .verdict, verdict := some .lineFault }, link := l } ∧
      (s.claimDropped tok.id).bay b = givenBack (s.bay b) ∧ (∀ d, d ≠ b → (s.claimDropped tok.id).bay d = s.bay d) ∧
      Told (.verdict .lineFault .transaction) (s.claimDropped tok.id) := by
  unfold State.claimDropped
  dsimp only
  rw [State.updateEntry_remove]
  generalize s.table.map _ = table
  rw [if_pos (State.claims_of (s := s) (u := { s with table := table }) rfl claiming token)]
  exact State.claimOver_spec { s with table := table } .lineFault chosen

/-- R83, R87: a dump that ends with its frame dropped, or the fresh one that is owed. -/
theorem State.endDump_of {s : State} (room : s.rlc.protocol.length < 12) :
    (s.ju.owed = false → s.endDump = { s with ju := { s.ju with dump := .idle } }) ∧
      (s.ju.owed = true → (⟨.dump, 0⟩ : Queued) ∈ s.endDump.rlc.protocol ∧ s.endDump.table = s.table ∧
        s.endDump.ju = { s.ju with
          dump := .dumping, stagger := none, owed := false, cursor := .index 0, nextSeq := 0, framesSent := 0,
          entriesSent := 0 }) := by
  unfold State.endDump
  constructor
  · intro notOwed
    rw [notOwed]
    rfl
  · intro owed
    rw [if_pos owed]
    exact State.beginDump_room room

/-- R80: a JOIN dropped in ANNOUNCING. -/
theorem State.joinDropped_of {s : State} (room : s.rlc.protocol.length < 12) (announcing : s.ju.join = .announcing) :
    (⟨.join, 0⟩ : Queued) ∈ s.joinDropped.rlc.protocol ∧ s.joinDropped.rlc.protocol.length = s.rlc.protocol.length + 1 ∧
      s.joinDropped.ju = s.ju := by
  unfold State.joinDropped
  rw [if_pos announcing]
  obtain ⟨_, _, e⟩ := s.queueProtocol_sets .join
  exact ⟨s.queueProtocol_mem .join room, State.queueProtocol_length .join room, by rw [e]⟩

end Sys2Proof.Machine

namespace Sys2Proof.Safety

open Sys2Proof.Machine

/-- R44: the eighth veto. -/
theorem exec_eighthVeto {s : State} {a : Attempt} {f : Frame} (h : Sending f 7 a s) (stays : a.removed = false)
    (undue : s.restartDue = false) (readback : Bool) :
    exec (.frameVetoed (.own readback)) s = .next ((s.dropRaised a f readback).producerDropped f).closingCheck := by
  rw [exec_ownVetoed h]
  have dropped : (s.slotEnded readback).vetoAttempt a ⟨f, 7⟩ = ((s.dropRaised a f readback).producerDropped f).closingCheck := by
    unfold State.vetoAttempt
    rw [stays]
    rfl
  obtain ⟨_, _, e, _⟩ := State.dropRaised_sets (f := f) h.2.2 readback
  obtain ⟨_, due⟩ := producerDropped_modes (s.dropRaised a f readback) f
  rw [dropped, State.afterAttempt_undue]
  rw [State.closingCheck_restartDue, due, e]
  exact undue

/-- The frame being sent leaves its queue one shorter. -/
theorem sent_length {s : State} {a : Attempt} {q : Queued} (side : a.side = .protocol)
    (frame : (s.side a.side)[a.place]? = some q) : (sent a s).rlc.protocol = s.rlc.protocol.eraseIdx a.place ∧
      (s.rlc.protocol.eraseIdx a.place).length + 1 = s.rlc.protocol.length := by
  rw [side] at frame
  have inside : a.place < s.rlc.protocol.length := (List.getElem?_eq_some_iff.mp frame).1
  refine ⟨if_pos side, ?_⟩
  rw [List.length_eraseIdx_of_lt inside]
  omega

/-- Settles O8: the drop before its producer's effect is `State.dropRaised`, and each producer's effect has its lemma above. -/
theorem theEighthVetoDropsTheFrame : Obligations.TheEighthVetoDropsTheFrame := by
  intro s a f readback sending stays undue working short
  have frame := sending.2.2
  obtain ⟨aq, v, raised, grown⟩ := State.dropRaised_sets (f := f) frame readback
  have records := State.dropRaised_records (f := f) frame readback working
  have unmarked := s.dropRaised_unmarked a (f := f) readback
  rw [exec_eighthVeto sending stays undue readback]
  generalize s.dropRaised a f readback = x at raised records unmarked ⊢
  have idle : x.rlc.attempt = none := by rw [raised]; rfl
  obtain ⟨attempt, veto, pairs⟩ := State.producerDropped_keeps f idle
  refine ⟨_, rfl, by rw [State.closingCheck_rlc]; exact attempt, by rw [State.closingCheck_rlc, veto, raised], fun unmasked => ?records,
    fun tok r eq side => ?lapse, fun tok b c st eq side claiming token chosen => ?claim, fun tok c o eq side => ?object,
    fun eq side announcing => ?join, fun eq side => ?dump, fun kinds side => ?service⟩
  case records =>
    rw [attentionPairs_of_aq (State.closingCheck_aq _), pairs]
    exact records unmasked
  case lapse =>
    obtain ⟨erased, _⟩ := sent_length side frame
    subst eq
    change x.closingCheck.rlc.protocol = _ ∧ x.closingCheck.table = _ ∧ x.closingCheck.bays = _
    rw [State.closingCheck_rlc, State.closingCheck_table, State.closingCheck_bays, raised]
    exact ⟨erased, rfl, rfl⟩
  case claim =>
    obtain ⟨erased, _⟩ := sent_length side frame
    subst eq
    change (x.claimDropped tok.id).closingCheck.rlc.protocol = _ ∧ (x.claimDropped tok.id).closingCheck.bay b = _ ∧
      (∀ d, d ≠ b → (x.claimDropped tok.id).closingCheck.bay d = _) ∧ (x.claimDropped tok.id).closingCheck.tap = _ ∧
      Told _ (x.claimDropped tok.id).closingCheck ∧ (x.claimDropped tok.id).closingCheck.table = _
    obtain ⟨bs, l, e, chosenBay, others, told⟩ := State.claimDropped_of (s := x) (tok := tok) (b := b)
      (by rw [raised]; exact claiming) (by rw [raised]; exact token) (by rw [raised]; exact chosen)
    have same : x.bays = s.bays := by rw [raised]
    refine ⟨?_, ?_, fun d other => ?_, ?_, Told.of_link told (State.closingCheck_link _), ?_⟩
    · rw [State.closingCheck_rlc, e, raised]; exact erased
    · rw [State.closingCheck_bay, chosenBay, State.bay_of_bays same]
    · rw [State.closingCheck_bay, others d other, State.bay_of_bays same]
    · rw [State.closingCheck_tap, e, raised]
    · rw [State.closingCheck_table, e, raised]
  case object =>
    obtain ⟨erased, _⟩ := sent_length side frame
    subst eq
    change (x.forgetObjection tok c).closingCheck.rlc.protocol = _ ∧ (x.forgetObjection tok c).closingCheck.table = _ ∧
      (x.forgetObjection tok c).closingCheck.bays = _ ∧ (x.forgetObjection tok c).closingCheck.ce = _
    rw [State.closingCheck_rlc, State.closingCheck_table, State.closingCheck_bays, State.closingCheck_ce, raised]
    exact ⟨erased, rfl, rfl, rfl⟩
  case join =>
    obtain ⟨erased, length⟩ := sent_length side frame
    have protocol : x.rlc.protocol = s.rlc.protocol.eraseIdx a.place := by rw [raised]; exact erased
    subst eq
    change (⟨.join, 0⟩ : Queued) ∈ x.joinDropped.closingCheck.rlc.protocol ∧ x.joinDropped.closingCheck.rlc.protocol.length = _ ∧
      x.joinDropped.closingCheck.ju = _
    obtain ⟨queued, longer, ju⟩ := State.joinDropped_of (s := x) (by rw [protocol]; omega) (by rw [raised]; exact announcing)
    rw [State.closingCheck_rlc, State.closingCheck_ju, longer, ju, protocol]
    exact ⟨queued, length, by rw [raised]⟩
  case dump =>
    obtain ⟨erased, length⟩ := sent_length side frame
    have protocol : x.rlc.protocol = s.rlc.protocol.eraseIdx a.place := by rw [raised]; exact erased
    have ends : x.producerDropped f = x.endDump := by rcases eq with rfl | rfl <;> rfl
    obtain ⟨over', fresh⟩ := State.endDump_of (s := x) (by rw [protocol]; omega)
    have ju : x.ju = s.ju := by rw [raised]
    have table : x.table = s.table := by rw [raised]
    rw [ends, State.closingCheck_rlc, State.closingCheck_table, State.closingCheck_ju]
    refine ⟨fun notOwed => ?_, fun owed => ?_⟩
    · rw [over' (by rw [ju]; exact notOwed)]
      exact ⟨protocol, by rw [← ju], table⟩
    · obtain ⟨queued, kept, begun⟩ := fresh (by rw [ju]; exact owed)
      exact ⟨queued, kept.trans table, by rw [begun, ju]⟩
  case service =>
    have offers : x.producerDropped f = x.offerNotice := by
      cases f with
      | logReady _ _ | logData _ _ _ _ _ _ _ | statusReply _ _ | notice _ => rfl
      | object _ _ _ | claim _ _ _ | lapse _ _ | join | dump | dumpEnd => simp [Frame.kind] at kinds
    have kept : s.rlc.service.eraseIdx a.place <+: x.rlc.service := by
      rw [raised, ← show (sent a s).rlc.service = _ from if_pos side]
      exact grown
    have still : x.offerNotice.rlc.protocol = s.rlc.protocol := by
      obtain ⟨_, _, e⟩ := x.offerNotice_sets
      rw [e, raised]
      exact if_neg (by rw [side]; decide)
    rw [offers, State.closingCheck_rlc, State.closingCheck_store, State.closingCheck_aq, State.offerNotice_store, raised]
    rw [raised] at kept still unmarked
    exact ⟨kept.trans (State.offerNotice_service_prefix _), still, rfl, fun notice => (unmarked notice).offerNotice⟩

end Sys2Proof.Safety
end

section
/-! SUPPORT. SendStarts: what a send start offers, and what it reads for a dump and for a STATUS-REPLY (R31, R43, R61, R84, R86,
R166, R167). -/

namespace Sys2Proof.Machine

open Sys2Proof.Safety

/-! ### The choices of a send start -/

/-- R43: what the frames of a protocol queue cost a send start: a DUMP turns into a DUMP-END before it is offered. -/
def offerCost (l : List Queued) : Nat := (l.map (fun q => if q.frame = .dump then 2 else 1)).sum

theorem offerCost_cons (q : Queued) (l : List Queued) :
    offerCost (q :: l) = (if q.frame = .dump then 2 else 1) + offerCost l := List.sum_cons

theorem offerCost_insert (l : List Queued) (i : Nat) (q : Queued) :
    offerCost (l.take i ++ q :: l.drop i) = (if q.frame = .dump then 2 else 1) + offerCost l := by
  have whole : offerCost l = offerCost (l.take i) + offerCost (l.drop i) := by
    unfold offerCost
    rw [← List.sum_append, ← List.map_append, List.take_append_drop]
  have parts : offerCost (l.take i ++ q :: l.drop i) = offerCost (l.take i) + offerCost (q :: l.drop i) := by
    unfold offerCost
    rw [List.map_append, List.sum_append]
  rw [parts, whole, offerCost_cons]
  omega

theorem offerCost_le (l : List Queued) : offerCost l ≤ 2 * l.length := by
  induction l with
  | nil => exact Nat.le_refl _
  | cons q rest ih =>
    rw [offerCost_cons, List.length_cons]
    split <;> omega

/-- R43: the choice at the head of the protocol queue. -/
theorem State.choose_head {s : State} {q : Queued} {rest : List Queued} (h : s.rlc.protocol = q :: rest) :
    (q.frame.kind = .object ∨ q.frame.kind = .lapse ∨ q.frame.kind = .join → s.choose = .offered .protocol .fixed) ∧
      (q.frame = .dumpEnd → s.choose = .offered .protocol s.settleDumpEnd) ∧
      (∀ t b x, q.frame = .claim t b x →
        s.choose = if s.claimStands t then .offered .protocol .fixed else .again (s.setProtocol rest)) ∧
      (q.frame = .dump → s.choose = if (s.readTable s.ju.cursor).1.isEmpty
        then .again ((s.setProtocol rest).queueProtocol .dumpEnd)
        else .offered .protocol (.dump s.ju.nextSeq (s.readTable s.ju.cursor).1 (s.readTable s.ju.cursor).2)) := by
  refine ⟨fun kind => ?fixed, fun frame => ?ends, fun t b x frame => ?claim, fun frame => ?dump⟩
  all_goals unfold State.choose; rw [h]; dsimp only
  case fixed =>
    cases frame : q.frame with
    | claim t b x => rw [frame] at kind; simp [Frame.kind] at kind
    | dump => rw [frame] at kind; simp [Frame.kind] at kind
    | dumpEnd => rw [frame] at kind; simp [Frame.kind] at kind
    | object _ _ _ | lapse _ _ | join | logReady _ _ | logData _ _ _ _ _ _ _ | statusReply _ _ | notice _ => rfl
  case ends => rw [frame]
  case claim => rw [frame]
  case dump => rw [frame]

/-- R43: every choice that is made again leaves less to choose from. -/
theorem State.choose_cost {s x : State} (h : s.choose = .again x) : offerCost x.rlc.protocol < offerCost s.rlc.protocol := by
  cases queue : s.rlc.protocol with
  | nil =>
    unfold State.choose at h
    rw [queue] at h
    cases service : s.rlc.service with
    | nil => rw [service] at h; cases h
    | cons => rw [service] at h; cases h
  | cons q rest =>
    obtain ⟨fixed, ends, claim, dump⟩ := State.choose_head queue
    have claimed (t : TokenId) (b : Bay) (st : Stamp) (frame : q.frame = .claim t b st) : x = s.setProtocol rest := by
      rw [claim t b st frame] at h
      split at h
      · cases h
      · exact (Choice.again.inj h).symm
    have dumped (frame : q.frame = .dump) : x = (s.setProtocol rest).queueProtocol .dumpEnd := by
      rw [dump frame] at h
      split at h
      · exact (Choice.again.inj h).symm
      · cases h
    rw [offerCost_cons]
    cases frame : q.frame with
    | claim t b st =>
      rw [claimed t b st frame]
      change offerCost rest < _
      rw [if_neg (by nofun)]
      omega
    | dump =>
      rw [dumped frame, if_pos rfl]
      unfold State.queueProtocol
      dsimp only
      split
      · change offerCost (rest.take _ ++ _ :: rest.drop _) < _
        rw [offerCost_insert, if_neg (by nofun)]
        omega
      · change offerCost rest < _
        omega
    | dumpEnd => rw [ends frame] at h; cases h
    | object _ _ _ => rw [fixed (.inl (congrArg Frame.kind frame))] at h; cases h
    | lapse _ _ => rw [fixed (.inr (.inl (congrArg Frame.kind frame)))] at h; cases h
    | join => rw [fixed (.inr (.inr (congrArg Frame.kind frame)))] at h; cases h
    | logReady _ _ | logData _ _ _ _ _ _ _ | statusReply _ _ | notice _ =>
      unfold State.choose at h
      rw [queue] at h
      dsimp only at h
      rw [frame] at h
      cases h

/-- R43: a send start makes all its choices with any fuel above the cost. -/
theorem State.offer_enough (n : Nat) : ∀ (m : Nat) (s : State), offerCost s.rlc.protocol < n →
    offerCost s.rlc.protocol < m → State.offer n s = State.offer m s := by
  induction n with
  | zero => exact fun m s h => absurd h (Nat.not_lt_zero _)
  | succ n ih =>
    intro m s hn hm
    obtain ⟨k, rfl⟩ := Nat.exists_eq_succ_of_ne_zero (Nat.ne_of_gt (Nat.lt_of_le_of_lt (Nat.zero_le _) hm))
    unfold State.offer
    cases choice : s.choose with
    | nothing => rfl
    | offered => rfl
    | again x =>
      have less := State.choose_cost choice
      exact ih k x (by omega) (by omega)

theorem exec_sendStart {s : State} (started : s.mode ≠ .starting) (idle : s.rlc.attempt = none) :
    exec .sendStart s = .next (State.offer s.offerFuel s) := by
  refine congrArg Host.Outcome.next (if_pos ?_)
  rw [idle]
  simpa using started

/-- R43: a choice made is offered. -/
theorem exec_sendStart_offered {s : State} {side : QueueSide} {settled : Settled} (started : s.mode ≠ .starting)
    (idle : s.rlc.attempt = none) (choice : s.choose = .offered side settled) :
    exec .sendStart s = .next (s.startAttempt side settled) := by
  rw [exec_sendStart started idle]
  unfold State.offerFuel State.offer
  rw [choice]

/-- R43: a choice made again is a send start on what is left. -/
theorem exec_sendStart_again {s x : State} (started : s.mode ≠ .starting) (idle : s.rlc.attempt = none)
    (started' : x.mode ≠ .starting) (idle' : x.rlc.attempt = none) (choice : s.choose = .again x) :
    exec .sendStart s = exec .sendStart x := by
  rw [exec_sendStart started idle, exec_sendStart started' idle']
  have less := State.choose_cost choice
  have most := offerCost_le s.rlc.protocol
  have most' := offerCost_le x.rlc.protocol
  unfold State.offerFuel
  conv => lhs; unfold State.offer
  rw [choice]
  exact congrArg Host.Outcome.next (State.offer_enough _ _ x (by omega) (by omega))

/-- R61: the withdrawal check. -/
theorem State.claimStands_iff (s : State) (t : TokenId) :
    s.claimStands t = true ↔ ∃ e, s.entry t = some e ∧ e.status = .ownPending ∧ e.claimant = some s.strap := by
  unfold State.claimStands
  cases s.entry t with
  | none => simp
  | some e => simp

/-! ### The table read for a dump -/

/-- A table's places with their indexes. -/
theorem zipIdx_eq_map_range {α : Type} (l : List (Option α)) :
    l.zipIdx = (List.range l.length).map (fun i => (l[i]?.join, i)) := by
  refine List.ext_getElem (by simp) fun i h _ => ?_
  rw [List.length_zipIdx] at h
  simp [h]

theorem filter_le_range (start n : Nat) : (List.range n).filter (fun i => start ≤ i) = (List.range n).drop start := by
  by_cases h : start ≤ n
  · obtain ⟨k, rfl⟩ := Nat.exists_eq_add_of_le h
    have below : (List.range start).filter (fun i => start ≤ i) = [] := by
      refine List.filter_eq_nil_iff.mpr fun i mem => ?_
      have := List.mem_range.mp mem
      simpa using this
    rw [List.range_add, List.filter_append, below, List.nil_append, List.drop_left' (List.length_range)]
    refine List.filter_eq_self.mpr fun i mem => ?_
    obtain ⟨j, _, rfl⟩ := List.mem_map.mp mem
    exact decide_eq_true (Nat.le_add_right _ _)
  · rw [List.drop_eq_nil_of_le (by rw [List.length_range]; omega)]
    refine List.filter_eq_nil_iff.mpr fun i mem => ?_
    have := List.mem_range.mp mem
    simp only [decide_eq_true_eq]
    omega

theorem filterMap_congr_mem {α β : Type} {f g : α → Option β} {l : List α} (same : ∀ a ∈ l, f a = g a) :
    l.filterMap f = l.filterMap g := by
  induction l with
  | nil => rfl
  | cons a rest ih =>
    rw [List.filterMap_cons, List.filterMap_cons, same a List.mem_cons_self, ih fun c mem => same c (List.mem_cons_of_mem a mem)]

/-- R31: the occupied places of a table are read in index order. -/
theorem occupiedFrom_eq (start : Nat) (table : List (Option Entry)) : occupiedFrom start table =
    ((List.range table.length).filter (fun i => start ≤ i)).filterMap (fun i => table[i]?.join.map (fun e => (i, e))) := by
  unfold occupiedFrom
  rw [zipIdx_eq_map_range, filter_le_range, ← List.map_drop, List.filterMap_map]
  rfl

theorem occupiedFrom_fst (start : Nat) (table : List (Option Entry)) :
    (occupiedFrom start table).map Prod.fst = occupied table start := by
  rw [occupiedFrom_eq, List.map_filterMap]
  unfold occupied
  have split' : (fun i => decide (start ≤ i) && (table[i]?.join).isSome) =
      fun i => (table[i]?.join).isSome && decide (start ≤ i) := funext fun i => Bool.and_comm ..
  rw [split', ← List.filter_filter]
  generalize (List.range table.length).filter (fun i => start ≤ i) = places
  rw [← List.filterMap_eq_filter]
  refine filterMap_congr_mem fun i _ => ?_
  cases h : table[i]?.join <;> simp [h, Option.guard]

theorem occupiedFrom_entry {start : Nat} {table : List (Option Entry)} {p : Nat × Entry}
    (h : p ∈ occupiedFrom start table) : table[p.1]?.join = some p.2 := by
  rw [occupiedFrom_eq] at h
  obtain ⟨i, _, found⟩ := List.mem_filterMap.mp h
  obtain ⟨e, place, rfl⟩ := Option.map_eq_some_iff.mp found
  exact place

/-- R84: the two ways to write the conversion. -/
theorem Entry.transfer_eq (strap : Addr) (e : Entry) : e.transfer strap = transferred strap e := by
  obtain ⟨_, status, _, _, _, _⟩ := e
  cases status <;> rfl

/-- R31, R84: the entries a read from an index gives, in terms of the occupied indexes. -/
theorem State.readTable_index (s : State) (start : Nat) :
    (s.readTable (.index start)).1 =
        ((occupied s.table start).take 4).filterMap (fun i => s.table[i]?.join.map (transferred s.strap)) ∧
      ((occupied s.table start).length ≤ 4 → (s.readTable (.index start)).2 = .atEnd) ∧
      ∀ i, 4 < (occupied s.table start).length → (occupied s.table start)[3]? = some i →
        (s.readTable (.index start)).2 = .index (i + 1) := by
  rw [← occupiedFrom_fst, List.length_map]
  refine ⟨?_, fun few => if_pos few, fun i many place => ?_⟩
  · rw [← List.map_take, List.filterMap_map]
    change ((occupiedFrom start s.table).take 4).map (fun p => p.2.transfer s.strap) = _
    rw [← List.filterMap_eq_map]
    refine filterMap_congr_mem fun p mem => ?_
    have entry := occupiedFrom_entry (List.mem_of_mem_take mem)
    simp only [Function.comp_apply, entry, Option.map_some, Entry.transfer_eq]
  · rw [List.getElem?_map] at place
    obtain ⟨p, at3, rfl⟩ := Option.map_eq_some_iff.mp place
    have last : ((occupiedFrom start s.table).take 4).getLast? = some p := by
      rw [List.getLast?_eq_getElem?, List.length_take, Nat.min_eq_left (Nat.le_of_lt many)]
      exact (List.getElem?_take_of_lt (by decide)).trans at3
    unfold State.readTable
    dsimp only
    rw [if_neg (Nat.not_le.mpr many)]
    change (match ((occupiedFrom start s.table).take 4).getLast? with
      | some p => Cursor.index (p.1 + 1)
      | none => .atEnd) = _
    rw [last]

theorem State.readTable_isEmpty (s : State) (start : Nat) :
    (s.readTable (.index start)).1.isEmpty = (occupied s.table start).isEmpty := by
  change (((occupiedFrom start s.table).take 4).map _).isEmpty = _
  rw [← occupiedFrom_fst, List.isEmpty_map, List.isEmpty_map]
  cases occupiedFrom start s.table <;> rfl

end Sys2Proof.Machine

namespace Sys2Proof.Safety

open Sys2Proof.Machine

/-- Settles O4: the choice at the head of a queue (`State.choose_head`), and a withdrawn CLAIM's choice made again
(`exec_sendStart_again`). -/
theorem sendStartOffersTheHeadOrWithdrawsAClaim : Obligations.SendStartOffersTheHeadOrWithdrawsAClaim := by
  refine ⟨fun s q rest started idle => ⟨fun queue kind => ?fixed, fun empty queue kind => ?service, fun empty empty' => ?nothing⟩,
    fun s t b x v rest started idle queue => ⟨fun stands => ?stands, fun fails => ?fails⟩⟩
  case fixed => exact exec_sendStart_offered started idle ((State.choose_head queue).1 kind)
  case service =>
    refine exec_sendStart_offered started idle ?_
    unfold State.choose
    rw [empty, queue]
    dsimp only
    refine congrArg _ ?_
    unfold State.settleService
    split
    · rename_i frame
      rw [frame] at kind
      exact absurd rfl kind
    · rfl
  case nothing =>
    rw [exec_sendStart started idle]
    have choice : s.choose = .nothing := by
      unfold State.choose
      rw [empty, empty']
    unfold State.offerFuel State.offer
    rw [choice]
  case stands =>
    obtain ⟨_, _, claim, _⟩ := State.choose_head queue
    refine exec_sendStart_offered started idle ((claim t b x rfl).trans (if_pos ?_))
    exact (s.claimStands_iff t).mpr stands
  case fails =>
    obtain ⟨_, _, claim, _⟩ := State.choose_head queue
    exact exec_sendStart_again (x := s.setProtocol rest) started idle started idle
      ((claim t b x rfl).trans (if_neg fun h => fails ((s.claimStands_iff t).mp h)))

/-- R84, R86: a DUMP alone in the queue with nothing left to read gives its place to a DUMP-END. -/
theorem exec_sendStart_dumpOver {s : State} {v : Nat} (started : s.mode ≠ .starting) (idle : s.rlc.attempt = none)
    (queue : s.rlc.protocol = [⟨.dump, v⟩]) (read : (s.readTable s.ju.cursor).1.isEmpty = true) :
    exec .sendStart s = .next { s with rlc := { s.rlc with
      protocol := [⟨.dumpEnd, 0⟩]
      attempt := some ⟨.arbitrating, .protocol, 0, s.settleDumpEnd, false⟩ } } := by
  obtain ⟨_, _, _, dump⟩ := State.choose_head queue
  have queued : (s.setProtocol []).queueProtocol .dumpEnd = s.setProtocol [⟨.dumpEnd, 0⟩] := by
    rw [State.queueProtocol_room (s := s.setProtocol []) .dumpEnd (Nat.zero_lt_succ 11)]
    have still : s.rlc.attempt.map (Attempt.gained .protocol (rankPlace .dumpEnd [])) = s.rlc.attempt := by
      rw [idle]
      rfl
    exact congrArg (fun x => { s with rlc := { s.rlc with protocol := [⟨.dumpEnd, 0⟩], attempt := x } }) still
  rw [exec_sendStart_again (x := s.setProtocol [⟨.dumpEnd, 0⟩]) started idle started idle
    ((dump rfl).trans ((if_pos read).trans (congrArg _ queued)))]
  obtain ⟨_, dumpEnds, _⟩ := State.choose_head (s := s.setProtocol [⟨.dumpEnd, 0⟩]) rfl
  exact exec_sendStart_offered started idle (dumpEnds rfl)

/-- Settles O5: a read with entries is `State.readTable_index`, and an empty one gives way to the DUMP-END. -/
theorem sendStartReadsTheTableForADump : Obligations.SendStartReadsTheTableForADump := by
  intro s v rest started idle
  refine ⟨fun queue start found cursor eq some' => ?entries, fun queue over' => ?atEnd, fun queue => ?ends⟩
  case entries =>
    subst eq
    obtain ⟨_, _, _, dump⟩ := State.choose_head queue
    obtain ⟨entries, few, many⟩ := s.readTable_index start
    refine ⟨(s.readTable (.index start)).2, ?_, few, fun i => many i⟩
    have offered := (dump rfl).trans (if_neg (by
      rw [cursor, s.readTable_isEmpty start, List.isEmpty_iff]
      exact some'))
    rw [cursor, entries] at offered
    exact exec_sendStart_offered started idle offered
  case atEnd =>
    refine exec_sendStart_dumpOver started idle queue ?_
    rcases over' with ended | ⟨start, cursor, none'⟩
    · rw [ended]; rfl
    · rw [cursor, s.readTable_isEmpty start, none']; rfl
  case ends =>
    obtain ⟨_, dumpEnds, _⟩ := State.choose_head queue
    exact exec_sendStart_offered started idle (dumpEnds rfl)

/-! ### Status -/

/-- R51, R53: a STATUS-QUERY to this post from the gateway, or in CONFIG-FAULT from any station, is handed on. -/
theorem exec_statusQuery {f : RowFrame} {s : State} {take : Bool} (h : Heard f s) (rank : f.rank.toNat = 4)
    (dest : f.dest = .one s.strap) (from' : s.mode = .configFault ∨ f.source = s.cfg.gateway)
    (read : readStatusQuery f.payload = some take) :
    exec (.statusQuery f) s = .next ((heard s).queueService (.statusReply f.source take)) := by
  have hears := s.hearing_of f h
  obtain ⟨started, _, other⟩ := h
  have admitted : s.admits .statusQuery f = true := by
    have names : destinationNames f.dest s.strap = true := (destinationNames_iff _ _).mpr (by rw [dest]; rfl)
    have allows : FrameKind.allows .statusQuery f.dest = true := by rw [dest]; rfl
    have gateway : (s.mode == .configFault || !FrameKind.gatewayOnly .statusQuery || f.source == s.cfg.gateway) = true := by
      rcases from' with fault | gateway
      · rw [fault]; rfl
      · rw [gateway, beq_self_eq_true, Bool.or_true]
    have works : (s.mode.working || (s.mode == .configFault && FrameKind.statusQuery == .statusQuery)) = true := by
      by_cases fault : s.mode = .configFault
      · rw [fault]; rfl
      · rw [working_of started fault]; rfl
    unfold State.admits
    rw [rank, names, allows, gateway, works]
    rfl
  refine congrArg Host.Outcome.next ?_
  unfold State.receive
  rw [if_pos hears]
  dsimp only
  rw [if_neg other, read]
  dsimp only
  rw [if_pos admitted]
  rfl

/-- R46, R47: a frame for the service queue. -/
theorem queueService_cases (s : State) (f : Frame) :
    (s.rlc.service.length < 4 → s.queueService f = s.setService (s.rlc.service ++ [⟨f, 0⟩])) ∧
      (4 ≤ s.rlc.service.length → s.queueService f = s) :=
  ⟨fun room => if_pos (decide_eq_true room), fun full => if_neg fun h => Nat.not_lt.mpr full (of_decide_eq_true h)⟩

/-- Settles O6: the query is taken (`exec_statusQuery`), and the reply's contents are settled at its send start. -/
theorem statusQueriesAreAnswered : Obligations.StatusQueriesAreAnswered := by
  refine ⟨fun f s take h rank dest from' read => ⟨fun room => ?queued, fun full => ?full⟩,
    fun s requester take v rest started idle empty queue => ?reply⟩
  case queued =>
    rw [exec_statusQuery h rank dest from' read, (queueService_cases (heard s) _).1 room]
    rfl
  case full => rw [exec_statusQuery h rank dest from' read, (queueService_cases (heard s) _).2 full]
  case reply =>
    have choice : s.choose = .offered .service s.settleStatus := by
      unfold State.choose
      rw [empty, queue]
      rfl
    rw [exec_sendStart_offered started idle choice]
    unfold State.settleStatus
    refine ⟨fun fault => ?_, fun sound => ⟨s.statusBody, ?_, rfl, rfl, fun b => ?_, rfl, rfl, rfl, rfl, rfl⟩⟩
    · exact congrArg (fun x => Host.Outcome.next (s.startAttempt .service x)) (by rw [if_pos fault, fault])
    · exact congrArg (fun x => Host.Outcome.next (s.startAttempt .service x)) (by rw [if_neg sound])
    · match b with
      | 0 | 1 | 2 | 3 => rfl

end Sys2Proof.Safety
end

section
/-! SUPPORT. Store: records written, fetched, cleared and drained (R149 to R157). -/

namespace Sys2Proof.Machine

open Sys2Proof.Safety

/-! ### Frames added to the service queue -/

/-- A LOG-READY or a NOTICE, which the store and the Attention Queue put in the service queue. -/
def Frame.announces (f : Frame) : Prop := f.kind = .logReady ∨ f.kind = .notice

/-- The service queue has gained at most announcing frames at its tail. -/
def Announces (s t : State) : Prop := ∃ l, t.rlc.service = s.rlc.service ++ l ∧ ∀ w ∈ l, w.frame.announces

namespace Announces

theorem of_service {s t : State} (h : t.rlc.service = s.rlc.service) : Announces s t :=
  ⟨[], by rw [h, List.append_nil], nofun⟩

theorem trans {s t u : State} (h : Announces s t) (k : Announces t u) : Announces s u := by
  obtain ⟨l, eq, all⟩ := h
  obtain ⟨l', eq', all'⟩ := k
  exact ⟨l ++ l', by rw [eq', eq, List.append_assoc], fun w mem => (List.mem_append.mp mem).elim (all w) (all' w)⟩

theorem queueService (s : State) {f : Frame} (h : f.announces) : Announces s (s.queueService f) := by
  unfold State.queueService
  split
  · exact ⟨[⟨f, 0⟩], rfl, fun w mem => List.mem_singleton.mp mem ▸ h⟩
  · exact of_service rfl

theorem offerNotice (s : State) : Announces s s.offerNotice := by
  unfold State.offerNotice
  split
  · exact of_service rfl
  · split
    · exact queueService s (.inr rfl)
    · exact of_service rfl

theorem raise (s : State) (src : Source) (code : Code) : Announces s (s.raise src code) := by
  unfold State.raise
  split
  · exact of_service rfl
  · split
    · exact of_service rfl
    · split
      · exact of_service rfl
      · split
        · exact (of_service (t := s.setEntries _) rfl).trans (offerNotice _)
        · exact of_service rfl

theorem writeRecord (s : State) (held : Bool) (body : RecordBody) : Announces s (s.writeRecord held body) := by
  unfold State.writeRecord
  split
  · have moved : Announces s (((s.placeRecord held body).fillSegment s.writerSegment).moveWriter) :=
      queueService (State.setStore _ _) (.inl rfl)
    dsimp only
    split
    · exact moved.trans (raise _ _ _)
    · exact moved
  · exact of_service rfl

theorem handOver (s : State) (held : Bool) (body : RecordBody) : Announces s (s.handOver held body) := by
  unfold State.handOver
  split
  · unfold State.pend
    split <;> exact of_service rfl
  · exact writeRecord s held body

theorem drain (s : State) : Announces s s.drain := by
  unfold State.drain
  have each (l : List RecordBody) : ∀ u : State, Announces u (l.foldl (fun x body => x.handOver true body) u) := by
    induction l with
    | nil => exact fun u => of_service rfl
    | cons body rest ih => exact fun u => (handOver u true body).trans (ih _)
  exact (of_service (t := s.setStore _) rfl).trans (each _ _)

theorem drainAndTell (s : State) : Announces s s.drainAndTell := by
  unfold State.drainAndTell
  dsimp only
  obtain ⟨_, _, _, e⟩ := tryDockAll_sets (allBays.filter (fun b => 0 < s.pendingCount b)) s.drain
  exact (drain s).trans (of_service (by rw [e]))

/-- What no announcing frame is holds of the queue after, where it held before. -/
theorem forall_of {s t : State} (h : Announces s t) {p : Queued → Prop} (before : ∀ w ∈ s.rlc.service, p w)
    (new : ∀ w : Queued, w.frame.announces → p w) : ∀ w ∈ t.rlc.service, p w := by
  obtain ⟨l, eq, all⟩ := h
  rw [eq]
  exact fun w mem => (List.mem_append.mp mem).elim (before w) fun added => new w (all w added)

end Announces

/-! ### BLOCKED -/

theorem State.blocked_of {s t : State} (store : t.store = s.store) (image : t.image = s.image) : t.blocked = s.blocked := by
  unfold State.blocked State.flagged State.writerSegment State.segmentSize State.cfg
  rw [store, image]

/-- R153: the state after a segment's flag is cleared and its LOG-DATA have lost their marks, before a drain. -/
def State.cleared (s : State) (g : Nat) : State :=
  (s.setStore { s.store with flags := s.store.flags.set g false }).setService
    (s.rlc.service.map (fun q => { q with frame := q.frame.unmark g }))

/-- R151: the store is no longer BLOCKED on the writer's segment. -/
theorem State.cleared_blocked_own (s : State) : (s.cleared s.writerSegment).blocked = false := by
  have unflagged : (s.cleared s.writerSegment).flagged s.writerSegment = false := by
    change (s.store.flags.set s.writerSegment false).getD s.writerSegment false = false
    rw [List.getD_eq_getElem?_getD, List.getElem?_set]
    simp only [if_true]
    split <;> rfl
  change (_ && (s.cleared s.writerSegment).flagged s.writerSegment) = false
  rw [unflagged, Bool.and_false]

theorem State.cleared_blocked_other {s : State} {g : Nat} (h : g ≠ s.writerSegment) : (s.cleared g).blocked = s.blocked := by
  have same : (s.cleared g).flagged s.writerSegment = s.flagged s.writerSegment := by
    change (s.store.flags.set g false).getD s.writerSegment false = s.store.flags.getD s.writerSegment false
    rw [List.getD_eq_getElem?_getD, List.getElem?_set_ne h, List.getD_eq_getElem?_getD]
  change (_ && (s.cleared g).flagged s.writerSegment) = (_ && s.flagged s.writerSegment)
  rw [same]
  rfl

/-- R153: a store that is not BLOCKED on the segment does not drain. -/
theorem State.clearSegment_kept {s : State} {g : Nat} (h : s.blocked = false ∨ g ≠ s.writerSegment) :
    s.clearSegment g = s.cleared g := by
  refine if_neg ?_
  rcases h with free | other
  · rw [free, Bool.false_and]
    decide
  · change ¬(s.blocked && !(s.cleared g).blocked) = true
    rw [State.cleared_blocked_other other, Bool.and_not_self]
    decide

/-- R153: a store BLOCKED on the segment drains. -/
theorem State.clearSegment_drained {s : State} (blocked : s.blocked = true) :
    s.clearSegment s.writerSegment = (s.cleared s.writerSegment).drainAndTell := by
  refine if_pos ?_
  change (s.blocked && !(s.cleared s.writerSegment).blocked) = true
  rw [blocked, s.cleared_blocked_own]
  rfl

/-- R156: no LOG-DATA of a cleared segment is advancing. -/
theorem State.cleared_unmarked (s : State) (g : Byte) {w : Queued} (mem : w ∈ (s.cleared g.toNat).rlc.service) {q : Addr}
    {start : BitVec 16} {records : List RentalRecord} {endOf adv : Bool} {r : Option Refused}
    (frame : w.frame = .logData q g start records endOf r adv) : adv = false := by
  obtain ⟨x, _, rfl⟩ := List.mem_map.mp mem
  change x.frame.unmark g.toNat = _ at frame
  cases shape : x.frame with
  | logData q' g' start' records' endOf' r' adv' =>
    rw [shape] at frame
    change Frame.logData q' g' start' records' endOf' r' (adv' && g'.toNat != g.toNat) = _ at frame
    injection frame with _ same _ _ _ _ mark
    rw [← mark, same, bne_self_eq_false, Bool.and_false]
  | _ => rw [shape] at frame; cases frame

theorem State.clearSegment_announces (s : State) (g : Nat) : Announces (s.cleared g) (s.clearSegment g) := by
  change Announces _ (if s.blocked && !(s.cleared g).blocked then (s.cleared g).drainAndTell else s.cleared g)
  split
  · exact Announces.drainAndTell _
  · exact Announces.of_service rfl

/-- R156, R163: no LOG-DATA of a cleared segment is advancing afterwards, whatever is announced. -/
theorem unmarked_of_announces {s t : State} {g : Byte} (h : Announces (s.cleared g.toNat) t) :
    ∀ (w : Queued) (q : Addr) (start : BitVec 16) (records : List RentalRecord) (endOf adv : Bool) (r : Option Refused),
      w ∈ t.rlc.service → w.frame = .logData q g start records endOf r adv → adv = false := by
  intro w q start records endOf adv r mem
  exact h.forall_of (p := fun w => w.frame = .logData q g start records endOf r adv → adv = false)
    (fun w mem frame => s.cleared_unmarked g mem frame)
    (fun w announces frame => by rw [frame] at announces; rcases announces with h | h <;> cases h) w mem

/-! ### The store drained -/

theorem DriveLaw.tryDock {s : State} (b : Bay) (h : DriveLaw s) : DriveLaw (s.tryDock b) := by
  unfold State.tryDock
  split
  · exact DriveLaw.requestRun b _ (h.of_drive rfl rfl)
  · exact h

/-- R119: a bay that docks stays so while others do. -/
theorem State.tryDock_other {s : State} {b c : Bay} (h : c ≠ b) (law : DriveLaw s) :
    (s.tryDock c).bay b = s.bay b ∧ (s.tryDock c).wantsDrive b = s.wantsDrive b := by
  unfold State.tryDock
  split
  · refine ⟨?_, ?_⟩
    · rw [State.requestRun_bay, State.bay_updateBay, if_neg h.symm]
    · exact State.requestRun_other (s.updateBay c _) c b _ h.symm (law.of_drive rfl rfl)
  · exact ⟨rfl, rfl⟩

/-- R119, R153: what a bay in EMPTY with its seat asserted needs to begin docking. -/
structure Docks (s : State) (b : Bay) : Prop where
  empty : (s.bay b).state = .empty
  seat : (s.input b).seat = true
  pending : s.pendingCount b < 2
  free : s.wantsDrive b = false

/-- R114: a bay that has asked for a run has a drive request. -/
theorem Asks.wants {s : State} {b : Bay} {run : RunFor} (h : Asks b run s) : s.wantsDrive b = true := by
  cases wants : s.wantsDrive b with
  | true => rfl
  | false =>
    obtain ⟨waits, runs⟩ := (State.wantsDrive_false_iff s b).mp wants
    have unlisted : s.drive.waiting.find? (fun r => r.bay == b) = none :=
      List.find?_eq_none.mpr (List.any_eq_false.mp waits)
    have idle : s.driveRequest b = .none := by
      unfold State.driveRequest
      rw [unlisted]
      dsimp only
      unfold State.runsAt at runs
      cases run' : s.run with
      | none => rfl
      | some r =>
        rw [run'] at runs
        exact if_neg (by simpa using runs)
    rcases h with h | h
    · rw [idle] at h; cases h
    · rw [idle] at h; cases h

theorem State.tryDock_docks {s : State} {b : Bay} (h : Docks s b) :
    ((s.tryDock b).bay b).state = .docking ∧ (s.tryDock b).wantsDrive b = true := by
  obtain ⟨empty, seat, pending, free⟩ := h
  obtain ⟨_, docks⟩ := State.tryDock_spec empty free
  obtain ⟨bay, _, asks⟩ := docks seat pending
  exact ⟨by rw [bay], Asks.wants asks⟩

/-- R119, R153: of bays told in turn, one that can dock does, and stays so. -/
theorem tryDockAll_docks (l : List Bay) : ∀ {s : State} {b : Bay}, DriveLaw s →
    ((s.bay b).state = .docking ∧ s.wantsDrive b = true ∨ Docks s b ∧ b ∈ l) →
    ((l.foldl (fun x b => x.tryDock b) s).bay b).state = .docking ∧
      (l.foldl (fun x b => x.tryDock b) s).wantsDrive b = true := by
  induction l with
  | nil => exact fun _ h => h.resolve_right fun k => nomatch k.2
  | cons c rest ih =>
    intro s b law h
    refine ih (DriveLaw.tryDock c law) ?_
    change ((s.tryDock c).bay b).state = .docking ∧ (s.tryDock c).wantsDrive b = true ∨ Docks (s.tryDock c) b ∧ b ∈ rest
    by_cases same : c = b
    · subst same
      rcases h with ⟨docking, wants⟩ | ⟨docks, _⟩
      · have still : s.tryDock c = s := if_neg fun k => by rw [docking] at k; cases k.1
        rw [still]
        exact .inl ⟨docking, wants⟩
      · exact .inl (State.tryDock_docks docks)
    · obtain ⟨bay, wants⟩ := State.tryDock_other same law
      have input : (s.tryDock c).input b = s.input b ∧ (s.tryDock c).pendingCount b = s.pendingCount b := by
        obtain ⟨_, _, _, e⟩ := s.tryDock_sets c
        rw [e]
        exact ⟨rfl, rfl⟩
      rcases h with ⟨docking, wants'⟩ | ⟨⟨empty, seat, pending, free⟩, mem⟩
      · exact .inl ⟨by rw [bay]; exact docking, wants.trans wants'⟩
      · refine .inr ⟨⟨by rw [bay]; exact empty, by rw [input.1]; exact seat, by rw [input.2]; exact pending, wants.trans free⟩, ?_⟩
        exact (List.mem_cons.mp mem).resolve_left (Ne.symm same)

/-- R153, R157: the segment the store is BLOCKED on is cleared: the waiting records are written, and the bays with records
waiting that can dock do. -/
theorem State.clearSegment_drains {s : State} (slots : s.store.slots.length = 1024) (drive : DriveLaw s) (blocked : s.blocked = true)
    (fits : s.store.waiting.length < s.segmentSize) (ends : s.store.writer + s.store.waiting.length < 1024) :
    Drained s (s.clearSegment s.writerSegment) ∧ (s.clearSegment s.writerSegment).blocked = false ∧
      (s.clearSegment s.writerSegment).store.flags = s.store.flags.set s.writerSegment false ∧
      ∀ b : Bay, (s.bay b).state = .empty → (s.input b).seat = true → s.pendingOf b ≠ [] → s.wantsDrive b = false →
        ((s.clearSegment s.writerSegment).bay b).state = .docking ∧
          (s.clearSegment s.writerSegment).wantsDrive b = true := by
  have atStart : s.store.writer % s.segmentSize = 0 := by
    unfold State.blocked at blocked
    exact eq_of_beq ((Bool.and_eq_true _ _).mp blocked).1
  rw [State.clearSegment_drained blocked]
  have free := s.cleared_blocked_own
  obtain ⟨y, hy⟩ : ∃ y, y = (s.cleared s.writerSegment).setStore { (s.cleared s.writerSegment).store with waiting := [] } := ⟨_, rfl⟩
  have size : y.segmentSize = s.segmentSize := by rw [hy]; rfl
  have writer : y.store.writer = s.store.writer := by rw [hy]; rfl
  obtain ⟨after, written, unblocked, records, others⟩ := State.handOverAll_wrote s.store.waiting y (by rw [hy]; exact free)
    (by rw [size, writer, atStart]; omega) (by rw [writer]; exact ends) (by rw [hy]; exact slots)
  have drained : (s.cleared s.writerSegment).drain = y.wrote after s.store.waiting.length := by
    rw [← written, hy]
    rfl
  have told : (s.cleared s.writerSegment).drainAndTell =
      (allBays.filter (fun b => 0 < s.pendingCount b)).foldl (fun x b => x.tryDock b) (y.wrote after s.store.waiting.length) := by
    rw [← drained]
    rfl
  obtain ⟨bs, d, r, e⟩ := tryDockAll_sets (allBays.filter (fun b => 0 < s.pendingCount b)) (y.wrote after s.store.waiting.length)
  have store : (s.cleared s.writerSegment).drainAndTell.store = (y.wrote after s.store.waiting.length).store ∧
      (s.cleared s.writerSegment).drainAndTell.image = (y.wrote after s.store.waiting.length).image := by
    rw [told, e]
    exact ⟨rfl, rfl⟩
  refine ⟨?drained, (State.blocked_of store.1 store.2).trans unblocked, by rw [store.1, hy]; rfl, fun b empty seat waits wants => ?docks⟩
  case drained =>
    unfold Drained
    rw [store.1]
    subst hy
    exact ⟨rfl, rfl, rfl, records, others⟩
  case docks =>
    rw [told]
    refine tryDockAll_docks _ ((drive.of_drive (t := y.wrote after s.store.waiting.length) (by rw [hy]; rfl) (by rw [hy]; rfl))) (.inr ⟨?_, ?_⟩)
    · subst hy
      exact ⟨empty, seat, Nat.zero_lt_succ 1, wants⟩
    · refine List.mem_filter.mpr ⟨mem_allBays b, decide_eq_true ?_⟩
      exact List.length_pos_iff.mpr waits

/-! ### A fetch -/

/-- The records before the first empty slot, of slots that are left. -/
theorem takeWhile_records {α : Type} (l : List (Option α)) :
    (∀ (k : Nat) (x : α), ((l.takeWhile Option.isSome).filterMap id)[k]? = some x → l[k]? = some (some x)) ∧
      ((l.takeWhile Option.isSome).filterMap id).length ≤ l.length ∧
      l[((l.takeWhile Option.isSome).filterMap id).length]?.join = none := by
  induction l with
  | nil => exact ⟨nofun, Nat.le_refl _, rfl⟩
  | cons slot rest ih =>
    obtain ⟨records, shorter, ends⟩ := ih
    cases slot with
    | none => exact ⟨nofun, Nat.zero_le _, rfl⟩
    | some y =>
      have step : ((some y :: rest).takeWhile Option.isSome).filterMap id =
          y :: (rest.takeWhile Option.isSome).filterMap id := by
        rw [List.takeWhile_cons_of_pos rfl, List.filterMap_cons]
        rfl
      rw [step]
      refine ⟨fun k x h => ?_, Nat.succ_le_succ shorter, ends⟩
      cases k with
      | zero => exact congrArg some h
      | succ k => exact records k x h

/-- R155: the records a fetch within range sends. -/
theorem State.fetched_spec (s : State) {g start count : Nat} (inside : start < s.segmentSize) :
    Fetched s g start count (s.fetched g start count) := by
  obtain ⟨last, hlast⟩ : ∃ last, last =
      if g = s.writerSegment ∧ s.flagged g = false then s.store.writer - g * s.segmentSize else s.segmentSize := ⟨_, rfl⟩
  have slots : s.fetchSlots g start count =
      (s.store.slots.drop (g * s.segmentSize + start)).take (min count (last - start)) := by rw [hlast]; rfl
  obtain ⟨records, shorter, ends⟩ := takeWhile_records (s.fetchSlots g start count)
  change (∀ k x, (s.fetched g start count)[k]? = some x → _) at records
  change (s.fetched g start count).length ≤ _ at shorter
  change (s.fetchSlots g start count)[(s.fetched g start count).length]?.join = none at ends
  generalize s.fetched g start count = sent at records shorter ends ⊢
  have bound : sent.length ≤ min count (last - start) := by
    rw [slots] at shorter
    exact Nat.le_trans shorter (List.length_take_le ..)
  have current : g = s.writerSegment → s.flagged g = false → last = s.store.writer - g * s.segmentSize :=
    fun own unflagged => by rw [hlast, if_pos ⟨own, unflagged⟩]
  have within' : last ≤ s.segmentSize := by
    rw [hlast]
    split
    · rename_i own
      have under : s.store.writer < s.segmentSize * (s.writerSegment + 1) := Nat.lt_mul_div_succ _ (Nat.zero_lt_of_lt inside)
      rw [own.1, Nat.mul_comm]
      rw [Nat.mul_add, Nat.mul_one] at under
      omega
    · exact Nat.le_refl _
  have whole : ¬(g = s.writerSegment ∧ s.flagged g = false) → last = s.segmentSize := fun h => by rw [hlast, if_neg h]
  refine ⟨by omega, fun some' => ?_, fun some' own unflagged => ?_, fun k x h => ?_, fun few short under => ?_⟩
  · have := List.length_pos_iff.mpr some'
    omega
  · have := List.length_pos_iff.mpr some'
    have := current own unflagged
    omega
  · have place := records k x h
    rw [slots, List.getElem?_take] at place
    split at place
    · rw [List.getElem?_drop] at place
      exact place
    · cases place
  · rw [slots, List.getElem?_take_of_lt, List.getElem?_drop] at ends
    · exact ends
    · by_cases own : g = s.writerSegment ∧ s.flagged g = false
      · have := current own.1 own.2
        have := under own.1 own.2
        omega
      · have := whole own
        omega

end Sys2Proof.Machine
end

section
/-! SUPPORT. StoreFrames: the echoes of the store's frames, the gateway's requests and the records of tag reads (R149 to R157). -/

namespace Sys2Proof.Machine

open Sys2Proof.Safety

/-! ### The echo of a LOG-DATA -/

/-- R156: the store of a state with the cursor of a segment moved. -/
def State.cursorMoved (s : State) (g n : Nat) : State :=
  s.setStore { s.store with cursors := s.store.cursors.set g n }

theorem State.moveCursor_eq (s : State) (g n : Nat) : s.moveCursor g n =
    if s.cfg.clearMode = .auto ∧ n = s.segmentSize then (s.cursorMoved g n).clearSegment g else s.cursorMoved g n := rfl

@[simp] theorem State.clearSegment_restartDue (s : State) (g : Nat) : (s.clearSegment g).restartDue = s.restartDue := by
  obtain ⟨_, _, _, _, _, _, e⟩ := s.clearSegment_sets g
  rw [e]

theorem State.moveCursor_restartDue (s : State) (g n : Nat) : (s.moveCursor g n).restartDue = s.restartDue := by
  rw [State.moveCursor_eq]
  split
  · exact State.clearSegment_restartDue _ g
  · rfl

/-- R156: the echo of a LOG-DATA moves the cursor where it is advancing, its segment is flagged and its cursor stands at the
start of the frame. -/
def advances (s : State) (g : Byte) (start : BitVec 16) (adv : Bool) : Prop :=
  adv = true ∧ s.flagged g.toNat = true ∧ s.store.cursors.getD g.toNat 0 = start.toNat

theorem logDataEchoEffect_cases (s : State) (q : Addr) (g : Byte) (start : BitVec 16) (records : List RentalRecord)
    (endOf adv : Bool) (r : Option Refused) (x : Settled) :
    (advances s g start adv → logDataEchoEffect (.logData q g start records endOf r adv) x s =
      (s.moveCursor g.toNat (start.toNat + records.length)).offerNotice) ∧
    (¬advances s g start adv → logDataEchoEffect (.logData q g start records endOf r adv) x s = s.offerNotice) := by
  have test : (adv && s.flagged g.toNat && s.store.cursors.getD g.toNat 0 == start.toNat) = true ↔ advances s g start adv := by
    unfold advances
    rw [Bool.and_eq_true, Bool.and_eq_true, beq_iff_eq, and_assoc]
  unfold logDataEchoEffect
  exact ⟨fun h => by dsimp only; rw [if_pos (test.mpr h)], fun h => by dsimp only; rw [if_neg (mt test.mp h)]⟩

end Sys2Proof.Machine

namespace Sys2Proof.Safety

open Sys2Proof.Machine

theorem exec_logDataEcho {s : State} {a : Attempt} {v : Nat} {q : Addr} {g : Byte} {start : BitVec 16}
    {records : List RentalRecord} {endOf adv : Bool} {r : Option Refused}
    (h : Sending (.logData q g start records endOf r adv) v a s) (undue : s.restartDue = false) :
    exec .logDataEcho s =
      .next (logDataEchoEffect (.logData q g start records endOf r adv) a.settled (sent a s)).closingCheck := by
  refine congrArg Host.Outcome.next (State.echo_sent h .logData rfl
    (fun f settled x => (logDataEchoEffect f settled x).closingCheck) ?_)
  obtain ⟨moves, stays⟩ := logDataEchoEffect_cases (sent a s) q g start records endOf adv r a.settled
  rw [State.closingCheck_restartDue]
  by_cases h : advances (sent a s) g start adv
  · rw [moves h, State.offerNotice_restartDue, State.moveCursor_restartDue]
    exact undue
  · rw [stays h, State.offerNotice_restartDue]
    exact undue

/-- R156: the echo of a LOG-DATA that advances. -/
theorem exec_logDataEcho_advances {s : State} {a : Attempt} {v : Nat} {q : Addr} {g : Byte} {start : BitVec 16}
    {records : List RentalRecord} {endOf adv : Bool} {r : Option Refused}
    (h : Sending (.logData q g start records endOf r adv) v a s) (undue : s.restartDue = false)
    (moves : advances s g start adv) : exec .logDataEcho s =
      .next ((sent a s).moveCursor g.toNat (start.toNat + records.length)).offerNotice.closingCheck := by
  obtain ⟨moved, _⟩ := logDataEchoEffect_cases (sent a s) q g start records endOf adv r a.settled
  rw [exec_logDataEcho h undue, moved moves]

/-- Settles O11: the cursor moves by `exec_logDataEcho_advances`, and a segment read to its end in AUTO mode is cleared
(`State.clearSegment_kept`, `unmarked_of_announces`). -/
theorem storeFrameEchoes : Obligations.StoreFrameEchoes := by
  intro s a v q g n start seq records endOf adv r undue
  refine ⟨fun sending => ?ready, fun sending => ⟨fun stays => ?stays, fun adv' flagged cursor => ?moves⟩⟩
  case ready =>
    refine ⟨_, congrArg Host.Outcome.next (State.echo_sent sending .logReady rfl logReadyEchoEffect ?_), ?_⟩
    · exact (State.offerNotice_restartDue _).trans undue
    · exact State.offerNotice_store _
  case stays =>
    obtain ⟨_, still⟩ := logDataEchoEffect_cases (sent a s) q g start records endOf adv r a.settled
    refine ⟨_, exec_logDataEcho sending undue, ?_⟩
    rw [still stays, State.closingCheck_store, State.offerNotice_store]
    rfl
  case moves =>
    rw [exec_logDataEcho_advances sending undue ⟨adv', flagged, cursor⟩, State.moveCursor_eq]
    refine ⟨fun short => ?_, fun full auto free => ?_⟩
    · refine ⟨_, rfl, ?_⟩
      rw [State.closingCheck_store, State.offerNotice_store, if_neg]
      · rfl
      · rintro ⟨auto, full⟩
        rcases short with short | explicit
        · exact short full
        · rw [show (sent a s).cfg.clearMode = .explicit from explicit] at auto
          cases auto
    · have cleared : ((sent a s).cursorMoved g.toNat (start.toNat + records.length)).clearSegment g.toNat =
          ((sent a s).cursorMoved g.toNat (start.toNat + records.length)).cleared g.toNat :=
        State.clearSegment_kept free
      refine ⟨_, rfl, ?_, ?_⟩
      · rw [State.closingCheck_store, State.offerNotice_store, if_pos ⟨auto, full⟩, cleared]
        rfl
      · rw [State.closingCheck_rlc, if_pos ⟨auto, full⟩, cleared]
        exact fun w q' start' records' endOf' adv'' r' =>
          unmarked_of_announces (Announces.offerNotice _) w q' start' records' endOf' adv'' r'

/-! ### Requests of the gateway -/

theorem exec_logFetch_taken {f : RowFrame} {s : State} {a : Addr} {g : Byte} {start count : Nat}
    (taken : TakenFromGateway 4 f s) (dest : f.dest = .one a) (read : readLogFetch f.payload = some (g, start, count)) :
    exec (.logFetch f) s = .next ((heard s).takeLogFetch f.source g start count) :=
  congrArg Host.Outcome.next (s.receive_gateway .logFetch f (g, start, count) _ _ taken read (by rw [dest]; rfl))

theorem exec_logClear_taken {f : RowFrame} {s : State} {a : Addr} {g : Byte} (taken : TakenFromGateway 4 f s)
    (dest : f.dest = .one a) (read : readLogClear f.payload = some g) :
    exec (.logClear f) s = .next ((heard s).takeLogClear f.source g).closingCheck :=
  congrArg Host.Outcome.next (s.receive_gateway .logClear f g _ _ taken read (by rw [dest]; rfl))

/-- R155: the answer of a fetch within range. -/
theorem fetchAnswer_spec (s : State) (requester : Addr) (g : Byte) {start count : Nat} (inside : start < s.segmentSize) :
    ∃ (records : List RentalRecord) (endOf adv : Bool), Fetched s g.toNat start count records ∧
      (endOf = true ↔ records ≠ [] ∧ start + records.length = s.segmentSize) ∧
      (adv = true ↔ s.flagged g.toNat = true ∧ s.store.cursors.getD g.toNat 0 = start ∧ records ≠ []) ∧
      s.fetchAnswer requester g start count =
        .logData requester g (BitVec.ofNat 16 start) records endOf none adv := by
  refine ⟨s.fetched g.toNat start count, _, _, s.fetched_spec inside, ?_, ?_, rfl⟩
  · rw [Bool.and_eq_true, Bool.not_eq_true', List.isEmpty_eq_false_iff, beq_iff_eq]
  · rw [Bool.and_eq_true, Bool.and_eq_true, beq_iff_eq, Bool.not_eq_true', List.isEmpty_eq_false_iff, and_assoc]

/-- R157: a LOG-CLEAR that clears nothing is refused where there is room for the answer, and otherwise ignored. -/
theorem takeLogClear_refused {s : State} {g : Byte} (requester : Addr)
    (h : s.cfg.segments ≤ g.toNat ∨ s.flagged g.toNat = false ∨ 4 ≤ s.rlc.service.length) :
    (s.rlc.service.length < 4 → s.takeLogClear requester g = s.setService (s.rlc.service ++ [⟨emptyAnswer requester g 0
      (some (if s.cfg.segments ≤ g.toNat then .range else .notReady)), 0⟩])) ∧
    (4 ≤ s.rlc.service.length → s.takeLogClear requester g = s) := by
  unfold State.takeLogClear
  dsimp only
  refine ⟨fun room => ?_, fun full => ?_⟩
  · by_cases range : s.cfg.segments ≤ g.toNat
    · rw [if_pos range, if_pos range]
      exact (queueService_cases s _).1 room
    · have unflagged : s.flagged g.toNat = false := (h.resolve_left range).resolve_right (by omega)
      rw [if_neg range, if_neg range, unflagged]
      exact (queueService_cases s _).1 room
  · split
    · exact (queueService_cases s _).2 full
    · split
      · exact if_neg fun room => Nat.not_lt.mpr full (of_decide_eq_true room)
      · exact (queueService_cases s _).2 full

/-- R157: a LOG-CLEAR that clears. -/
theorem takeLogClear_clears {s : State} {g : Byte} (requester : Addr) (range : g.toNat < s.cfg.segments)
    (flagged : s.flagged g.toNat = true) (room : s.rlc.service.length < 4) : s.takeLogClear requester g =
      (s.setService (s.rlc.service ++ [⟨emptyAnswer requester g 0 none, 0⟩])).clearSegment g.toNat := by
  unfold State.takeLogClear
  dsimp only
  rw [if_neg (Nat.not_le.mpr range), if_pos flagged, if_pos (show s.serviceRoom = true from decide_eq_true room),
    (queueService_cases s _).1 room]

/-- Settles O25: a fetch is answered by `fetchAnswer_spec`, and a LOG-CLEAR refused (`takeLogClear_refused`) or carried out
(`takeLogClear_clears`). -/
theorem gatewayRequestsAreAnsweredInTheServiceQueue : Obligations.GatewayRequestsAreAnsweredInTheServiceQueue := by
  intro f s a g start count taken dest
  refine ⟨fun read => ⟨fun room => ⟨fun range => ?range, fun known inside => ?records⟩, fun full => ?full⟩,
    fun read refused => ⟨fun room => ?refused, fun full => ?ignored⟩, fun read known flagged room => ?cleared⟩
  case range =>
    rw [exec_logFetch_taken taken dest read]
    unfold State.takeLogFetch
    rw [if_pos (show (heard s).cfg.segments ≤ g.toNat ∨ (heard s).segmentSize ≤ start from range)]
    exact congrArg Host.Outcome.next ((queueService_cases (heard s) _).1 room)
  case records =>
    obtain ⟨records, endOf, adv, fetched, atEnd, advancing, answer⟩ := fetchAnswer_spec (heard s) f.source g inside (count := count)
    refine ⟨records, endOf, adv, fetched, atEnd, advancing, ?_⟩
    have within' : ¬((heard s).cfg.segments ≤ g.toNat ∨ (heard s).segmentSize ≤ start) :=
      not_or.mpr ⟨Nat.not_le.mpr known, Nat.not_le.mpr inside⟩
    rw [exec_logFetch_taken taken dest read]
    unfold State.takeLogFetch
    rw [if_neg within', answer]
    exact congrArg Host.Outcome.next ((queueService_cases (heard s) _).1 room)
  case full =>
    rw [exec_logFetch_taken taken dest read]
    exact congrArg Host.Outcome.next ((queueService_cases (heard s) _).2 full)
  case refused =>
    rw [exec_logClear_taken taken dest read, (takeLogClear_refused (s := heard s) f.source refused).1 room]
    rfl
  case ignored =>
    rw [exec_logClear_taken taken dest read, (takeLogClear_refused (s := heard s) f.source refused).2 full]
  case cleared =>
    rw [exec_logClear_taken taken dest read, takeLogClear_clears (s := heard s) f.source known flagged room]
    have announces := State.clearSegment_announces
      ((heard s).setService (s.rlc.service ++ [⟨emptyAnswer f.source g 0 none, 0⟩])) g.toNat
    refine ⟨_, rfl, ?_, ?_, ?_, fun free => ?_⟩
    · obtain ⟨l, service, _⟩ := announces
      rw [State.closingCheck_rlc]
      refine service.symm ▸ ?_
      refine List.mem_append_left _ (List.mem_map.mpr ⟨⟨emptyAnswer f.source g 0 none, 0⟩, ?_, rfl⟩)
      exact List.mem_append_right _ (List.mem_singleton.mpr rfl)
    · obtain ⟨_, _, _, _, _, _, e⟩ := State.clearSegment_sets
        ((heard s).setService (s.rlc.service ++ [⟨emptyAnswer f.source g 0 none, 0⟩])) g.toNat
      rw [State.closingCheck_table]
      exact (congrArg State.table e :)
    · rw [State.closingCheck_rlc]
      exact unmarked_of_announces announces
    · have kept := State.clearSegment_kept
        (s := (heard s).setService (s.rlc.service ++ [⟨emptyAnswer f.source g 0 none, 0⟩])) free
      rw [State.closingCheck_store, State.closingCheck_bays]
      exact ⟨(congrArg State.store kept :), (congrArg State.bays kept :)⟩

/-! ### Records that fill, block and drain the store -/

theorem Drained.of_store {s t u : State} (h : Drained s t) (e : u.store = t.store) : Drained s u := by
  unfold Drained at h ⊢
  rw [e]
  exact h

/-- R149 to R151: the state after a record has taken the last slot of its segment, before the store's BLOCKED is raised. -/
def filled (s : State) (body : RecordBody) : State :=
  ((s.placeRecord false body).fillSegment s.writerSegment).moveWriter

theorem handOver_filled {s : State} (free : s.blocked = false) (atEnd : s.store.writer % s.segmentSize = s.segmentSize - 1)
    (body : RecordBody) : s.handOver false body =
      if (filled s body).blocked then (filled s body).raise .store .storeBlocked else filled s body := by
  unfold State.handOver State.writeRecord
  rw [free, if_neg (by decide)]
  exact if_pos (beq_iff_eq.mpr atEnd)

/-- R149 to R151: the store such a record leaves. -/
def filledStore (s : State) (body : RecordBody) : RecordStore := { s.store with
  slots := s.store.slots.set s.store.writer (some ⟨s.store.nextSeq, s.ssu.stamp, s.ssu.state == .stale, false, body⟩)
  nextSeq := s.store.nextSeq + 1, writer := (s.store.writer + 1) % 1024
  flags := s.store.flags.set s.writerSegment true, cursors := s.store.cursors.set s.writerSegment 0 }

/-- R150: LOG-READY is queued where the service queue has room. -/
theorem filled_eq (s : State) (body : RecordBody) :
    (s.rlc.service.length < 4 → filled s body = (s.setService (s.rlc.service ++
      [⟨.logReady s.writerSegment ((s.placeRecord false body).firstSeq s.writerSegment), 0⟩])).setStore (filledStore s body)) ∧
    (4 ≤ s.rlc.service.length → filled s body = s.setStore (filledStore s body)) := by
  obtain ⟨flagged, shape⟩ : ∃ x : State, x = (s.placeRecord false body).setStore { (s.placeRecord false body).store with
      flags := s.store.flags.set s.writerSegment true, cursors := s.store.cursors.set s.writerSegment 0 } := ⟨_, rfl⟩
  have queue : flagged.rlc.service = s.rlc.service := by rw [shape]; rfl
  have moved : filled s body = (flagged.queueService
      (.logReady s.writerSegment ((s.placeRecord false body).firstSeq s.writerSegment))).moveWriter := by rw [shape]; rfl
  refine ⟨fun room => ?_, fun full => ?_⟩
  · rw [moved, (queueService_cases flagged _).1 (by rw [queue]; exact room), shape]
    rfl
  · rw [moved, (queueService_cases flagged _).2 (by rw [queue]; exact full), shape]
    rfl

theorem filled_sets (s : State) (body : RecordBody) : (filled s body).store = filledStore s body ∧
    (filled s body).mode = s.mode ∧ (filled s body).image = s.image := by
  obtain ⟨room, full⟩ := filled_eq s body
  by_cases h : s.rlc.service.length < 4
  · rw [room h]
    exact ⟨rfl, rfl, rfl⟩
  · rw [full (Nat.not_lt.mp h)]
    exact ⟨rfl, rfl, rfl⟩

/-- R149 to R151: a record that takes the last slot of its segment. -/
theorem handOver_fills {s : State} (free : s.blocked = false) (atEnd : s.store.writer % s.segmentSize = s.segmentSize - 1)
    (body : RecordBody) : (s.handOver false body).store = filledStore s body ∧
      (∀ r, s.rlc.service.length < 4 → (filledStore s body).slots[s.writerSegment * s.segmentSize]? = some (some r) →
        s.rlc.service ++ [⟨.logReady s.writerSegment r.seq, 0⟩] <+: (s.handOver false body).rlc.service) ∧
      ((s.handOver false body).blocked = true → s.mode.working = true → s.masked .store = false →
        (Source.store, Code.storeBlocked) ∈ attentionPairs (s.handOver false body)) := by
  obtain ⟨store, mode, image⟩ := filled_sets s body
  have ready (r : RentalRecord) (room : s.rlc.service.length < 4)
      (first : (filledStore s body).slots[s.writerSegment * s.segmentSize]? = some (some r)) :
      (filled s body).rlc.service = s.rlc.service ++ [⟨.logReady s.writerSegment r.seq, 0⟩] := by
    have seq : (s.placeRecord false body).firstSeq s.writerSegment = r.seq := by
      unfold State.firstSeq
      rw [List.getD_eq_getElem?_getD]
      change (match ((filledStore s body).slots[s.writerSegment * s.segmentSize]?).getD none with
        | some r => r.seq
        | none => 0) = _
      rw [first]
      rfl
    rw [(filled_eq s body).1 room, seq]
    rfl
  have raised := (filled s body).raise_sets .store .storeBlocked
  rw [handOver_filled free atEnd]
  split
  · obtain ⟨_, _, e⟩ := raised
    refine ⟨by rw [e]; exact store, fun r room first => ?_, fun _ working unmasked => ?_⟩
    · rw [← ready r room first]
      exact State.raise_service_prefix _ _ _
    · refine State.raise_records _ _ _ (by rw [mode]; exact working) ?_
      unfold State.masked State.cfg at unmasked ⊢
      rw [image]
      exact unmasked
  · rename_i free'
    exact ⟨store, fun r room first => ⟨[], (List.append_nil _).trans (ready r room first).symm⟩, fun blocks => absurd blocks free'⟩

/-- R152: a record handed over while the store is BLOCKED waits. -/
theorem handOver_waits {s : State} (blocked : s.blocked = true) {body : RecordBody} (kept : body ≠ .resetMark) :
    s.handOver false body = s.setStore { s.store with waiting := s.store.waiting ++ [body] } := by
  unfold State.handOver State.pend
  rw [if_pos blocked, if_neg]
  rw [beq_eq_false_iff_ne.mpr kept, Bool.false_and]
  decide

/-- R118: the tag read of a bay over, its bike ID and class as read or as they were. -/
def tagIdle (s : State) (b : Bay) : State := s.updateBay b (fun x => { x with tagRead := none, failedDock := none })

/-- R120: a tag read in DOCKING, its RELATCH run not failed, ends with a RETURN and in DOCKED. -/
theorem endTagRead_docked {s : State} {b : Bay} (docking : (s.bay b).state = .docking) (sound : (s.bay b).failedDock = none) :
    s.endTagRead b = ((tagIdle s b).handOver false (.returned b (s.bay b).bikeId (s.bay b).bikeClass false)).enterDocked b := by
  unfold State.endTagRead
  dsimp only
  rw [docking, sound]
  dsimp only
  unfold State.handReturn
  rw [State.bay_updateBay, if_pos rfl]
  rfl

/-- R120: a read attempt in DOCKING. -/
theorem tagAttempt_docked {s : State} {b : Bay} (docking : (s.bay b).state = .docking) (sound : (s.bay b).failedDock = none)
    (n : Nat) (id : BikeId) (cls : BikeClass) : ∃ bs, s.tagAttempt b n (some (id, cls)) =
      (State.handOver { s with bays := bs } false (.returned b (some id) (some cls) false)).enterDocked b := by
  have read : (s.updateBay b (fun r => { r with bikeId := some id, bikeClass := some cls })).bay b =
      { s.bay b with bikeId := some id, bikeClass := some cls } := by rw [State.bay_updateBay, if_pos rfl]
  refine ⟨(tagIdle (s.updateBay b (fun r => { r with bikeId := some id, bikeClass := some cls })) b).bays, ?_⟩
  refine (endTagRead_docked (s := s.updateBay b _) (by rw [read]; exact docking) (by rw [read]; exact sound)).trans ?_
  rw [read]
  rfl

/-- R153, R156, R157: what a cleared segment's drain leaves stands after what follows it in the event. -/
theorem drains_of {s u t : State} {g : Nat} (h : Drained s u ∧ u.blocked = false ∧ u.store.flags = s.store.flags.set g false ∧
      ∀ b : Bay, (s.bay b).state = .empty → (s.input b).seat = true → s.pendingOf b ≠ [] → s.wantsDrive b = false →
        (u.bay b).state = .docking ∧ u.wantsDrive b = true)
    (store : t.store = u.store) (image : t.image = u.image) (bays : t.bays = u.bays) (drive : t.drive = u.drive)
    (run : t.run = u.run) : Drained s t ∧ t.blocked = false ∧ t.store.flags = s.store.flags.set g false ∧
      ∀ b : Bay, (s.bay b).state = .empty → (s.input b).seat = true → s.pendingOf b ≠ [] → s.wantsDrive b = false →
        (t.bay b).state = .docking ∧ t.wantsDrive b = true := by
  obtain ⟨drained, free, flags, docks⟩ := h
  refine ⟨drained.of_store store, (State.blocked_of store image).trans free, by rw [store]; exact flags,
    fun b empty seat waits wants => ?_⟩
  rw [State.bay_of_bays bays, State.wantsDrive_of (by rw [drive]) run]
  exact docks b empty seat waits wants

/-- R163, R178: what an offer and the check in CLOSING leave. -/
theorem offered_keeps (s : State) : s.offerNotice.closingCheck.store = s.store ∧ s.offerNotice.closingCheck.image = s.image ∧
    s.offerNotice.closingCheck.bays = s.bays ∧ s.offerNotice.closingCheck.drive = s.drive ∧
    s.offerNotice.closingCheck.run = s.run := by
  obtain ⟨_, _, e⟩ := s.offerNotice_sets
  rw [State.closingCheck_store, State.closingCheck_image, State.closingCheck_bays, State.closingCheck_drive,
    State.closingCheck_run, e]
  exact ⟨rfl, rfl, rfl, rfl, rfl⟩

/-- Settles O12: the record of a tag read (`tagAttempt_docked`) fills its segment (`handOver_fills`) or waits
(`handOver_waits`), and the clearing of the writer's segment drains (`State.clearSegment_drains`). -/
theorem recordsFillBlockAndDrainTheStore : Obligations.RecordsFillBlockAndDrainTheStore := by
  refine ⟨fun s b n answer id cls working reading read docking sound => ?_,
    fun s c g slots drive blocked own fits ends command => ?_⟩
  · obtain ⟨bs, e⟩ := tagAttempt_docked docking sound n id cls
    rw [exec_tagReadAttemptCompletion reading, read, e]
    refine ⟨fun free atEnd => ?fills, fun blocked => ?waits⟩
    case fills =>
      obtain ⟨store, ready, raised⟩ := handOver_fills (s := { s with bays := bs }) free atEnd (.returned b (some id) (some cls) false)
      refine ⟨_, rfl, ?_, fun r room first => ?_, fun blocks unmasked => ?_⟩
      · rw [State.closingCheck_store, State.enterDocked_store, store]
        rfl
      · rw [State.closingCheck_store, State.enterDocked_store, store] at first
        rw [State.closingCheck_rlc]
        exact ready r room first
      · rw [State.blocked_of (State.closingCheck_store _) (State.closingCheck_image _)] at blocks
        rw [attentionPairs_of_aq (State.closingCheck_aq _)]
        exact raised blocks working unmasked
    case waits =>
      rw [handOver_waits (s := { s with bays := bs }) blocked (body := .returned b (some id) (some cls) false) nofun]
      refine ⟨_, rfl, ?_, ?_⟩
      · rw [State.closingCheck_bay, State.enterDocked_bay, if_pos rfl]
      · rw [State.closingCheck_store, State.enterDocked_store]
        rfl
  · rcases command with ⟨f, rfl, taken, dest, read, known, room⟩ | ⟨rfl, undue, auto, a, v, q, start, records, endOf, r, sending, cursor, full⟩
    · have flagged : s.flagged g.toNat = true := by
        unfold State.blocked at blocked
        rw [own]
        exact ((Bool.and_eq_true _ _).mp blocked).2
      have drains := State.clearSegment_drains (s := (heard s).setService (s.rlc.service ++ [⟨emptyAnswer f.source g 0 none, 0⟩]))
        slots.1 (drive.of_drive rfl rfl) blocked fits ends
      rw [exec_logClear_taken taken dest read, takeLogClear_clears (s := heard s) f.source known flagged room, own]
      exact ⟨_, rfl, drains_of drains (State.closingCheck_store _) (State.closingCheck_image _) (State.closingCheck_bays _)
        (State.closingCheck_drive _) (State.closingCheck_run _)⟩
    · have flagged : s.flagged g.toNat = true := by
        unfold State.blocked at blocked
        rw [own]
        exact ((Bool.and_eq_true _ _).mp blocked).2
      have drains := State.clearSegment_drains (s := (sent a s).cursorMoved g.toNat (start.toNat + records.length))
        slots.1 (drive.of_drive rfl rfl) blocked fits ends
      rw [exec_logDataEcho_advances sending undue ⟨rfl, flagged, cursor⟩, State.moveCursor_eq, if_pos ⟨auto, full⟩]
      rw [own]
      rw [own] at drains
      obtain ⟨store, image, bays, drive', run⟩ := offered_keeps (State.clearSegment _ _)
      exact ⟨_, rfl, drains_of drains store image bays drive' run⟩

end Sys2Proof.Safety
end

section
/-! SUPPORT. ClaimsHeard: what a CLAIM, an OBJECT and a REVOKE of another station do (R19, R22, R66, R68 to R70, R73). -/

namespace Sys2Proof.Machine

open Sys2Proof.Safety

/-! ### A claim over before its settle window ended -/

/-- R103, R107: the claim of `y` has ended with this verdict, bay `c` given back, and all else is as it was. -/
structure ClaimEnds (y t : State) (v : Verdict) (c : Bay) : Prop where
  bay : t.bay c = givenBack (y.bay c)
  others : ∀ d, d ≠ c → t.bay d = y.bay d
  tap : t.tap = { y.tap with phase := .verdict, verdict := some v }
  told : Told (.verdict v .transaction) t
  table : t.table = y.table
  ce : t.ce = y.ce
  rlc : t.rlc = y.rlc
  aq : t.aq = y.aq
  tcu : t.tcu = y.tcu

theorem claimOver_ends {y : State} {c : Bay} (v : Verdict) (chosen : y.tap.chosen = some c) :
    ClaimEnds y (y.claimOver v).closingCheck v c := by
  obtain ⟨bs, l, e, bay, others, told⟩ := y.claimOver_spec v chosen
  refine ⟨by rw [State.closingCheck_bay, bay], fun d other => by rw [State.closingCheck_bay, others d other], ?_,
    Told.of_link told (State.closingCheck_link _), ?_, ?_, ?_, ?_, ?_⟩
  · rw [State.closingCheck_tap, e]
  · rw [State.closingCheck_table, e]
  · rw [State.closingCheck_ce, e]
  · rw [State.closingCheck_rlc, e]
  · rw [State.closingCheck_aq, e]
  · rw [State.closingCheck_tcu, e]

/-! ### Places in a protocol queue -/

/-- R46: an OBJECT joins behind the OBJECTs of the queue. -/
theorem insert_object (q : List Queued) (x : Queued) :
    q.take (rankPlace .object q) ++ x :: q.drop (rankPlace .object q) =
      q.takeWhile (fun y => y.frame.kind.rank = 0) ++ x :: q.dropWhile (fun y => y.frame.kind.rank = 0) := by
  have place : rankPlace .object q = (q.takeWhile (fun y => y.frame.kind.rank = 0)).length := by
    unfold rankPlace
    exact congrArg (fun p => (q.takeWhile p).length) (funext fun y => decide_eq_decide.mpr Nat.le_zero)
  have take : q.take (q.takeWhile (fun y => y.frame.kind.rank = 0)).length = q.takeWhile (fun y => y.frame.kind.rank = 0) :=
    (List.prefix_iff_eq_take.mp (List.takeWhile_prefix _)).symm
  have drop : q.drop (q.takeWhile (fun y => y.frame.kind.rank = 0)).length = q.dropWhile (fun y => y.frame.kind.rank = 0) := by
    refine List.append_cancel_left (as := q.takeWhile (fun y => y.frame.kind.rank = 0)) ?_
    rw [List.takeWhile_append_dropWhile]
    conv => lhs; arg 1; rw [← take]
    exact List.take_append_drop ..
  rw [place, take, drop]

/-! ### OBJECTs decided on and removed -/

theorem recorded_iff (s : State) (t : TokenId) (c : Addr) :
    s.ce.objections.any (fun o => o.token == t && o.claimant == c) = true ↔ ∃ o ∈ s.ce.objections, o.token = t ∧ o.claimant = c := by
  rw [List.any_eq_true]
  simp only [Bool.and_eq_true, beq_iff_eq]

/-- R68: the three ways an OBJECT decided on goes. -/
theorem State.decideObject_cases (s : State) (t : TokenId) (c : Addr) (reason : ObjectReason) :
    ((∃ o ∈ s.ce.objections, o.token = t ∧ o.claimant = c) → s.decideObject t c reason = s) ∧
    ((∀ o ∈ s.ce.objections, ¬(o.token = t ∧ o.claimant = c)) →
      (s.ce.objections.length < 5 → s.decideObject t c reason =
        (s.queueProtocol (.object t c reason)).setCe { s.ce with objections := s.ce.objections ++ [⟨t, c⟩] }) ∧
      (5 ≤ s.ce.objections.length → s.decideObject t c reason = s.raise .line .objectionDropped)) := by
  unfold State.decideObject
  refine ⟨fun known => if_pos ((recorded_iff s t c).mpr known), fun new => ?_⟩
  have unknown : ¬s.ce.objections.any (fun o => o.token == t && o.claimant == c) = true := fun h =>
    let ⟨o, mem, same⟩ := (recorded_iff s t c).mp h
    new o mem same
  rw [if_neg unknown]
  exact ⟨fun room => if_pos room, fun full => if_neg (Nat.not_lt.mpr full)⟩

theorem isObjectFor_iff (t : TokenId) (c : Addr) (f : Frame) : f.isObjectFor t c = true ↔ ∃ o, f = .object t c o := by
  cases f <;> simp [Frame.isObjectFor]

/-- R69: with no record nothing is removed. -/
theorem State.suppress_none {s : State} {t : TokenId} {c : Addr} (h : ∀ o ∈ s.ce.objections, ¬(o.token = t ∧ o.claimant = c)) :
    s.suppress t c = s := if_neg fun k =>
  let ⟨o, mem, same⟩ := (recorded_iff s t c).mp k
  h o mem same

/-- R69: what the removal of an OBJECT leaves and does, no attempt being in flight. -/
theorem State.suppress_idle {s : State} (t : TokenId) (c : Addr) (idle : s.rlc.attempt = none) : ∃ o q, s.suppress t c = { s with
    ce := { s.ce with objections := o }, rlc := { s.rlc with protocol := q } } ∧
    ((∃ o ∈ s.ce.objections, o.token = t ∧ o.claimant = c) →
      o = s.ce.objections.filter (fun x => !(x.token == t && x.claimant == c)) ∧
        Without (fun f => ∃ o, f = .object t c o) s.rlc.protocol q) ∧
    ((∀ o ∈ s.ce.objections, ¬(o.token = t ∧ o.claimant = c)) → o = s.ce.objections ∧ q = s.rlc.protocol) := by
  by_cases known : ∃ o ∈ s.ce.objections, o.token = t ∧ o.claimant = c
  · obtain ⟨q, e, without⟩ := s.removeProtocol_idle (Frame.isObjectFor t c) idle
    refine ⟨_, q, ?_, fun _ => ⟨rfl, without_of_iff without (isObjectFor_iff t c)⟩, fun none' => ?_⟩
    · unfold State.suppress
      rw [if_pos ((recorded_iff s t c).mpr known), e]
      rfl
    · obtain ⟨o, mem, same⟩ := known
      exact absurd same (none' o mem)
  · have none' : ∀ o ∈ s.ce.objections, ¬(o.token = t ∧ o.claimant = c) := fun o mem same => known ⟨o, mem, same⟩
    exact ⟨_, _, State.suppress_none none', fun h => absurd h known, fun _ => ⟨rfl, rfl⟩⟩

theorem State.stopSettle_objections (s : State) (t : TokenId) : (s.stopSettle t).ce.objections = s.ce.objections := by
  unfold State.stopSettle
  split
  · split <;> rfl
  · rfl

/-- R70, R73: the settle timer of the token is stopped. -/
theorem State.stopSettle_of {s : State} {t : TokenId} {n : Nat} (h : s.ce.settle = some ⟨n, t⟩) :
    s.stopSettle t = { s with ce := { s.ce with settle := none } } := by
  unfold State.stopSettle
  rw [h]
  exact if_pos rfl

/-! ### CLAIMs -/

section

variable {s : State} {c : Addr} {t : TokenId} {b : Bay} {x : Stamp} {e : Entry}

/-- R66: a CLAIM for an unknown token. -/
theorem State.takeClaim_unknown (h : s.entry t = none) :
    s.takeClaim c t b x = s.insertEntry ⟨t, .peerClaimed, some c, some b, x, false⟩ := by
  unfold State.takeClaim
  rw [h]

/-- R66: a CLAIM repeated by the claimant of its token's entry. -/
theorem State.takeClaim_repeated (h : s.entry t = some e) (peer : e.status = .peerClaimed) (same : e.claimant = some c) :
    s.takeClaim c t b x = s := by
  unfold State.takeClaim
  rw [h]
  dsimp only
  rw [peer]
  exact if_pos same

/-- R66: a CLAIM for a token that is spent, void or revoked is objected to. -/
theorem State.takeClaim_objected {reason : ObjectReason} (h : s.entry t = some e)
    (why : (e.status = .ownSettling ∨ e.status = .ownHeld ∨ e.status = .ownTaken ∨
        (e.status = .peerClaimed ∧ e.claimant ≠ some c)) ∧ reason = .spent
      ∨ e.status = .void ∧ reason = .void ∨ e.status = .revoked ∧ reason = .revoked) :
    s.takeClaim c t b x = s.decideObject t c reason := by
  unfold State.takeClaim
  rw [h]
  dsimp only
  rcases why with ⟨spent, rfl⟩ | ⟨status, rfl⟩ | ⟨status, rfl⟩
  · rcases spent with status | status | status | ⟨status, other⟩
    · rw [status]
    · rw [status]
    · rw [status]
    · rw [status]
      exact if_neg other
  · rw [status]
  · rw [status]

/-- R66: a CLAIM for the token of the post's own claim replaces it. -/
theorem State.takeClaim_replaces {tok : Token} (h : s.entry tok.id = some e) (pending : e.status = .ownPending)
    (claiming : s.tap.phase = .claiming) (token : s.tap.token = some tok) (idle : s.rlc.attempt = none) :
    ∃ q, s.takeClaim c tok.id b x = State.claimOver { s with
      table := s.table.map (fun slot => slot.map (fun z =>
        if z.token = tok.id then ⟨tok.id, .peerClaimed, some c, some b, x, false⟩ else z))
      rlc := { s.rlc with protocol := q } } .claimedElsewhere ∧ Without (ClaimFor tok.id) s.rlc.protocol q := by
  unfold State.takeClaim
  rw [h]
  dsimp only
  rw [pending]
  dsimp only
  rw [State.updateEntry_change s tok.id (fun _ => ⟨tok.id, .peerClaimed, some c, some b, x, false⟩)]
  obtain ⟨q, e', without⟩ := State.withdrawClaim_idle { s with
    table := s.table.map (fun slot => slot.map (fun z =>
      if z.token = tok.id then ⟨tok.id, .peerClaimed, some c, some b, x, false⟩ else z)) } tok.id idle
  refine ⟨q, ?_, without⟩
  rw [e']
  exact if_pos (State.claims_of (s := s) rfl claiming token)

end

/-- R19, R22: what inserting an entry for an unknown token leaves. -/
theorem insertEntry_evicting {s : State} {e : Entry} {i : Nat} (unknown : s.entry e.token = none) (evicts : Evicts s.table i) :
    ∃ aq q, s.insertEntry e = { s with
      table := s.table.set i (some e), aq := aq, rlc := { s.rlc with service := q } } ∧
      (s.mode.working = true → s.masked .table = false →
        (Source.table, Code.tablePressure) ∈ attentionPairs (s.insertEntry e)) := by
  rw [s.insertEntry_evicts e i unknown evicts]
  obtain ⟨aq, q, e'⟩ := ({ s with table := s.table.set i (some e) } : State).raise_sets .table .tablePressure
  exact ⟨aq, q, e', fun working unmasked => State.raise_records _ _ _ working unmasked⟩

end Sys2Proof.Machine

namespace Sys2Proof.Safety

open Sys2Proof.Machine

theorem exec_claim_taken {f : RowFrame} {s : State} {tok : TokenId} {b : Bay} {x : Stamp} (taken : TakenFromAny 1 f s)
    (read : readClaim f.payload = some (tok, b, x)) :
    exec (.claim f) s = .next ((heard s).takeClaim f.source tok b x).closingCheck :=
  congrArg Host.Outcome.next (s.receive_any .claim f (tok, b, x) _ _ taken read rfl rfl)

theorem exec_object_taken {f : RowFrame} {s : State} {tok : TokenId} {c : Addr} (taken : TakenFromAny 0 f s)
    (read : readObject f.payload = some (tok, c)) :
    exec (.object f) s = .next ((heard s).takeObject tok c).closingCheck :=
  congrArg Host.Outcome.next (s.receive_any .object f (tok, c) _ _ taken read rfl rfl)

theorem exec_revoke_taken {f : RowFrame} {s : State} {tok : TokenId} {x : Stamp} (taken : TakenFromGateway 2 f s)
    (many : ∀ a, f.dest ≠ .one a) (read : readRevoke f.payload = some (tok, x)) :
    exec (.revoke f) s = .next ((heard s).takeRevoke tok x).closingCheck := by
  refine congrArg Host.Outcome.next (s.receive_gateway .revoke f (tok, x) _ _ taken read ?_)
  cases dest : f.dest with
  | one a => exact absurd dest (many a)
  | span b l => rfl
  | all => rfl

theorem Without.of_eq {p : Frame → Prop} {l q r : List Queued} (h : Without p l q) (e : r = q) : Without p l r := e ▸ h

/-- Settles O16: the entry takes a free place or evicts (`insertEntry_evicting`). -/
theorem claimHeardOfAnUnknownTokenIsEntered : Obligations.ClaimHeardOfAnUnknownTokenIsEntered := by
  intro f s tok b x i taken read unknown
  rw [exec_claim_taken taken read, State.takeClaim_unknown (s := heard s) unknown]
  refine ⟨fun free => ?_, fun evicts => ?_⟩
  · rw [(heard s).insertEntry_free ⟨tok, .peerClaimed, some f.source, some b, x, false⟩ i unknown free]
    rfl
  · obtain ⟨aq, q, e, records⟩ := insertEntry_evicting (s := heard s) (e := ⟨tok, .peerClaimed, some f.source, some b, x, false⟩)
      unknown evicts
    refine ⟨_, rfl, ?_, ?_, ?_, ?_, ?_, fun unmasked => ?_⟩
    · rw [State.closingCheck_bays, e]; rfl
    · rw [State.closingCheck_tap, e]; rfl
    · rw [State.closingCheck_ce, e]; rfl
    · rw [State.closingCheck_rlc, e]; rfl
    · rw [State.closingCheck_table, e]; rfl
    · rw [attentionPairs_of_aq (State.closingCheck_aq _)]
      exact records (working_of taken.1.1 taken.2.1) unmasked

/-- Settles O17: a repeated CLAIM is `State.takeClaim_repeated`, and the objections are the cases of `State.decideObject_cases`. -/
theorem claimHeardForAKnownTokenIsObjectedTo : Obligations.ClaimHeardForAKnownTokenIsObjectedTo := by
  intro f s tok b x e taken read known
  rw [exec_claim_taken taken read]
  refine ⟨fun peer same => ?repeated, fun reason why => ?_⟩
  case repeated => rw [State.takeClaim_repeated (s := heard s) known peer same]
  rw [State.takeClaim_objected (s := heard s) known why]
  obtain ⟨declined, new⟩ := (heard s).decideObject_cases tok f.source reason
  refine ⟨fun room unrecorded space => ?_, fun recorded => ?_, fun full unrecorded => ?_⟩
  · rw [(new unrecorded).1 room, State.queueProtocol_room (s := heard s) _ space]
    refine ⟨_, rfl, ?_, ?_, ?_, ?_, ?_, ?_⟩
    · rw [State.closingCheck_ce]; rfl
    · rw [State.closingCheck_ce]; rfl
    · rw [State.closingCheck_table]; rfl
    · rw [State.closingCheck_tap]; rfl
    · rw [State.closingCheck_bays]; rfl
    · rw [State.closingCheck_rlc]
      exact insert_object _ _
  · rw [declined recorded]
  · rw [(new unrecorded).2 full]
    obtain ⟨aq, q, raised⟩ := (heard s).raise_sets .line .objectionDropped
    refine ⟨_, rfl, ?_, ?_, ?_, ?_, ?_, fun unmasked => ?_⟩
    · rw [State.closingCheck_ce, raised]; rfl
    · rw [State.closingCheck_table, raised]; rfl
    · rw [State.closingCheck_tap, raised]; rfl
    · rw [State.closingCheck_bays, raised]; rfl
    · rw [State.closingCheck_rlc, raised]; rfl
    · rw [attentionPairs_of_aq (State.closingCheck_aq _)]
      exact State.raise_records _ _ _ (working_of taken.1.1 taken.2.1) unmasked

/-- Settles O18: the claim is replaced (`State.takeClaim_replaces`) and ends (`claimOver_ends`). -/
theorem claimHeardReplacesThePendingClaim : Obligations.ClaimHeardReplacesThePendingClaim := by
  intro f s tok b c x e taken read known pending claiming token chosen
  obtain ⟨q, replaced, without⟩ := State.takeClaim_replaces (s := heard s) (c := f.source) (b := b) (x := x) known pending
    claiming token taken.1.2.1
  rw [exec_claim_taken taken read, replaced]
  obtain ⟨bay, others, tap, told, table, _, rlc, aq, _⟩ := claimOver_ends (c := c) (y := { heard s with
    table := s.table.map (fun slot => slot.map (fun z =>
      if z.token = tok.id then ⟨tok.id, .peerClaimed, some f.source, some b, x, false⟩ else z))
    rlc := { (heard s).rlc with protocol := q } }) .claimedElsewhere chosen
  exact ⟨_, rfl, without.of_eq (congrArg RowLine.protocol rlc), bay, others, tap, told, (congrArg RowLine.service rlc :), aq, table⟩

end Sys2Proof.Safety
end

section
/-! SUPPORT. ObjectsHeard: what an OBJECT and a REVOKE of another station do (R69, R70, R73). -/

namespace Sys2Proof.Machine

open Sys2Proof.Safety

/-- The table with the entry of a token changed. -/
def changedTable (table : List (Option Entry)) (t : TokenId) (f : Entry → Entry) : List (Option Entry) :=
  table.map (fun slot => slot.map (fun e => if e.token = t then f e else e))

theorem State.updateEntry_changed (s : State) (t : TokenId) (f : Entry → Entry) :
    s.updateEntry t (fun e => some (f e)) = { s with table := changedTable s.table t f } := s.updateEntry_change t f

section

variable {s : State} {t : TokenId} {c : Addr} {e : Entry}

/-! ### OBJECTs -/

/-- R69: whatever the table holds of the token, an OBJECT waiting for it and the claimant is removed. -/
theorem State.takeObject_suppresses (t : TokenId) (c : Addr) (idle : s.rlc.attempt = none) : ∃ y : State,
    y.ce.objections = s.ce.objections ∧ y.rlc.protocol = s.rlc.protocol ∧ y.rlc.attempt = none ∧
      (s.takeObject t c).ce.objections = (y.suppress t c).ce.objections ∧
      (s.takeObject t c).rlc.protocol = (y.suppress t c).rlc.protocol := by
  have plain : ∃ y : State, y.ce.objections = s.ce.objections ∧ y.rlc.protocol = s.rlc.protocol ∧ y.rlc.attempt = none ∧
      (s.suppress t c).ce.objections = (y.suppress t c).ce.objections ∧
      (s.suppress t c).rlc.protocol = (y.suppress t c).rlc.protocol := ⟨s, rfl, rfl, idle, rfl, rfl⟩
  unfold State.takeObject
  split
  · exact plain
  · dsimp only
    split
    · split
      · obtain ⟨ce, stops⟩ := (s.updateEntry t (fun x => some { x with status := .void })).stopSettle_sets t
        have objections := (s.updateEntry t (fun x => some { x with status := .void })).stopSettle_objections t
        refine ⟨(s.updateEntry t (fun x => some { x with status := .void })).stopSettle t, objections, by rw [stops]; rfl,
          by rw [stops]; exact idle, ?_⟩
        split
        · obtain ⟨_, _, ends⟩ := State.claimOver_sets (((s.updateEntry t
            (fun x => some { x with status := .void })).stopSettle t).suppress t c) .objected
          rw [ends]
          exact ⟨rfl, rfl⟩
        · exact ⟨rfl, rfl⟩
      · exact plain
    · split
      · obtain ⟨_, _, raised⟩ := s.raise_sets .table .lateObjection
        exact ⟨s.raise .table .lateObjection, by rw [raised], by rw [raised], by rw [raised]; exact idle, rfl, rfl⟩
      · exact plain
    · split
      · obtain ⟨_, _, raised⟩ := s.raise_sets .table .lateObjection
        exact ⟨s.raise .table .lateObjection, by rw [raised], by rw [raised], by rw [raised]; exact idle, rfl, rfl⟩
      · exact plain
    · split
      · exact ⟨s.updateEntry t (fun x => some { x with status := .void }), rfl, rfl, idle, rfl, rfl⟩
      · exact plain
    · exact plain
    · exact plain
    · exact plain

/-- R70: an OBJECT against another station's claim. -/
theorem State.takeObject_voids (known : s.entry t = some e) (peer : e.status = .peerClaimed) (claimant : e.claimant = some c)
    (other : c ≠ s.strap) (unrecorded : ∀ o ∈ s.ce.objections, ¬(o.token = t ∧ o.claimant = c)) :
    s.takeObject t c = { s with table := changedTable s.table t (fun x => { x with status := .void }) } := by
  unfold State.takeObject
  rw [known]
  dsimp only
  rw [peer]
  dsimp only
  rw [if_pos ⟨claimant, other⟩, s.updateEntry_changed t (fun x => { x with status := .void })]
  exact State.suppress_none unrecorded

/-- R70: an OBJECT against this post for a claim held or taken. -/
theorem State.takeObject_late (known : s.entry t = some e) (own : e.status = .ownHeld ∨ e.status = .ownTaken)
    (unrecorded : ∀ o ∈ s.ce.objections, ¬(o.token = t ∧ o.claimant = s.strap)) :
    s.takeObject t s.strap = s.raise .table .lateObjection := by
  have none' : ∀ o ∈ (s.raise .table .lateObjection).ce.objections, ¬(o.token = t ∧ o.claimant = s.strap) := by
    obtain ⟨_, _, raised⟩ := s.raise_sets .table .lateObjection
    rw [raised]
    exact unrecorded
  unfold State.takeObject
  rw [known]
  dsimp only
  rcases own with status | status
  · rw [status]
    dsimp only
    rw [if_pos rfl]
    exact State.suppress_none none'
  · rw [status]
    dsimp only
    rw [if_pos rfl]
    exact State.suppress_none none'

/-- R70: an OBJECT against this post's settling claim. -/
theorem State.takeObject_ends {tok : Token} {n : Nat} (known : s.entry tok.id = some e) (settling : e.status = .ownSettling)
    (timer : s.ce.settle = some ⟨n, tok.id⟩) (phase : s.tap.phase = .settling) (token : s.tap.token = some tok)
    (idle : s.rlc.attempt = none) : ∃ o q, s.takeObject tok.id s.strap = State.claimOver { s with
      table := changedTable s.table tok.id (fun x => { x with status := .void })
      ce := ⟨none, o⟩, rlc := { s.rlc with protocol := q } } .objected := by
  unfold State.takeObject
  rw [known]
  dsimp only
  rw [settling]
  dsimp only
  rw [if_pos rfl, s.updateEntry_changed tok.id (fun x => { x with status := .void })]
  rw [State.stopSettle_of (s := { s with table := changedTable s.table tok.id (fun x => { x with status := .void }) }) timer]
  obtain ⟨o, q, e', _⟩ := State.suppress_idle (s := { s with
    table := changedTable s.table tok.id (fun x => { x with status := .void }), ce := { s.ce with settle := none } })
    tok.id s.strap idle
  refine ⟨o, q, ?_⟩
  rw [e']
  exact if_pos (State.claims_of (s := s) rfl phase token)

/-! ### REVOKEs -/

/-- R27, R73: the table with the entry of a token made REVOKED. -/
def revokedTable (table : List (Option Entry)) (t : TokenId) (x : Stamp) : List (Option Entry) :=
  changedTable table t (fun y => y.revoke x)

variable {x : Stamp}

theorem State.takeRevoke_unknown (h : s.entry t = none) : s.takeRevoke t x = s.insertEntry ⟨t, .revoked, none, none, x, false⟩ := by
  unfold State.takeRevoke
  rw [h]

/-- R73: a REVOKE for an entry that is no claim of this post. -/
theorem State.takeRevoke_revokes (known : s.entry t = some e)
    (status : e.status = .peerClaimed ∨ e.status = .void ∨ e.status = .revoked) :
    s.takeRevoke t x = { s with table := revokedTable s.table t x } := by
  unfold State.takeRevoke
  rw [known]
  dsimp only
  rw [s.updateEntry_changed t (fun y => y.revoke x)]
  rcases status with status | status | status
  · rw [status]
    rfl
  · rw [status]
    rfl
  · rw [status]
    rfl

/-- R73: a REVOKE for the post's own pending claim. -/
theorem State.takeRevoke_pending {tok : Token} (known : s.entry tok.id = some e) (pending : e.status = .ownPending)
    (phase : s.tap.phase = .claiming) (token : s.tap.token = some tok) (idle : s.rlc.attempt = none) :
    ∃ q, s.takeRevoke tok.id x = State.claimOver { s with
      table := revokedTable s.table tok.id x, rlc := { s.rlc with protocol := q } } .revoked ∧
      Without (ClaimFor tok.id) s.rlc.protocol q := by
  unfold State.takeRevoke
  rw [known]
  dsimp only
  rw [pending, s.updateEntry_changed tok.id (fun y => y.revoke x)]
  obtain ⟨q, e', without⟩ := State.withdrawClaim_idle { s with table := revokedTable s.table tok.id x } tok.id idle
  refine ⟨q, ?_, without⟩
  unfold revokedTable at e'
  dsimp only
  rw [e']
  exact if_pos (State.claims_of (s := s) rfl phase token)

/-- R73: a REVOKE for the post's own settling claim. -/
theorem State.takeRevoke_settling {tok : Token} {n : Nat} (known : s.entry tok.id = some e) (settling : e.status = .ownSettling)
    (timer : s.ce.settle = some ⟨n, tok.id⟩) (phase : s.tap.phase = .settling) (token : s.tap.token = some tok) :
    s.takeRevoke tok.id x = State.claimOver { s with
      table := revokedTable s.table tok.id x, ce := { s.ce with settle := none } } .revoked := by
  unfold State.takeRevoke
  rw [known]
  dsimp only
  rw [settling, s.updateEntry_changed tok.id (fun y => y.revoke x)]
  dsimp only
  rw [State.stopSettle_of (s := { s with table := changedTable s.table tok.id (fun y => y.revoke x) }) timer]
  exact if_pos (State.claims_of (s := s) rfl phase token)

/-- R73: a REVOKE for a claim held or taken. -/
theorem State.takeRevoke_marks (known : s.entry t = some e) (own : e.status = .ownHeld ∨ e.status = .ownTaken) :
    s.takeRevoke t x = if e.revokedLate = true
      then { s with table := changedTable s.table t (fun y => { y with revokedLate := true, expiry := laterStamp y.expiry x }) }
      else State.raise { s with
        table := changedTable s.table t (fun y => { y with revokedLate := true, expiry := laterStamp y.expiry x }) }
        .table .revokedLate := by
  unfold State.takeRevoke
  rw [known]
  dsimp only
  rw [s.updateEntry_changed t (fun y => { y with revokedLate := true, expiry := laterStamp y.expiry x })]
  rcases own with status | status
  · rw [status]
  · rw [status]

end

end Sys2Proof.Machine

namespace Sys2Proof.Safety

open Sys2Proof.Machine

/-- Settles O19: an OBJECT voids (`State.takeObject_voids`), comes late (`State.takeObject_late`) or ends the settling claim
(`State.takeObject_ends`), and an OBJECT that waits here is removed (`State.takeObject_suppresses`). -/
theorem objectHeard : Obligations.ObjectHeard := by
  refine ⟨fun f s tok c e taken read known unrecorded => ⟨fun peer claimant other => ?voids, fun own strap unmasked => ?late⟩,
    fun f s tok c taken read => ?waiting, fun f s tok c n e taken read known settling timer phase token chosen => ?ends⟩
  case voids =>
    rw [exec_object_taken taken read, State.takeObject_voids (s := heard s) known peer claimant other unrecorded]
    rfl
  case late =>
    subst strap
    have late : (heard s).takeObject tok s.strap = (heard s).raise .table .lateObjection :=
      State.takeObject_late known own unrecorded
    obtain ⟨aq, q, raised⟩ := (heard s).raise_sets .table .lateObjection
    refine ⟨_, exec_object_taken taken read, ?_, ?_, ?_, ?_⟩
    · rw [State.closingCheck_table]; exact (congrArg State.table (late.trans raised) :)
    · rw [State.closingCheck_bays]; exact (congrArg State.bays (late.trans raised) :)
    · rw [State.closingCheck_tap]; exact (congrArg State.tap (late.trans raised) :)
    · rw [attentionPairs_of_aq (State.closingCheck_aq _), attentionPairs_of_aq (congrArg State.aq late)]
      exact State.raise_records _ _ _ (working_of taken.1.1 taken.2.1) unmasked
  case waiting =>
    obtain ⟨y, objections, protocol, idle, objections', protocol'⟩ :=
      State.takeObject_suppresses (s := heard s) tok c taken.1.2.1
    obtain ⟨o, q, e, removed, kept⟩ := y.suppress_idle tok c idle
    refine ⟨_, exec_object_taken taken read, fun before after reason v recorded queue first => ?_, fun unrecorded => ?_⟩
    · obtain ⟨left, without⟩ := removed ⟨⟨tok, c⟩, by rw [objections]; exact recorded, rfl, rfl⟩
      rw [State.closingCheck_ce, State.closingCheck_rlc, objections', protocol', e]
      refine ⟨by rw [left, objections]; rfl, ?_⟩
      refine without.1 before after ⟨.object tok c reason, v⟩ (by rw [protocol]; exact queue) ⟨reason, rfl⟩ ?_
      rintro w mem ⟨o', frame⟩
      exact first w mem o' frame
    · obtain ⟨left, same⟩ := kept (by rw [objections]; exact unrecorded)
      rw [State.closingCheck_ce, State.closingCheck_rlc, objections', protocol', e]
      exact ⟨left.trans objections, same.trans protocol⟩
  case ends =>
    obtain ⟨o, q, ended⟩ := State.takeObject_ends (s := heard s) known settling timer phase token taken.1.2.1
    change (heard s).takeObject tok.id s.strap = _ at ended
    rw [exec_object_taken taken read, ended]
    obtain ⟨bay, others, tap, told, table, ce, _⟩ := claimOver_ends (c := c) (y := { heard s with
      table := changedTable s.table tok.id (fun x => { x with status := .void })
      ce := ⟨none, o⟩, rlc := { (heard s).rlc with protocol := q } }) .objected chosen
    exact ⟨_, rfl, (congrArg ClaimEngine.settle ce :), bay, others, tap, told, table⟩

/-- Settles O20: the cases of `State.takeRevoke`, each with its lemma above. -/
theorem revokeHeard : Obligations.RevokeHeard := by
  intro f s tok x taken many read
  rw [exec_revoke_taken taken many read]
  refine ⟨fun i unknown => ⟨fun free => ?free, fun evicts => ?evicts⟩, fun e revoked known eq =>
    ⟨fun status => ?revokes, fun T c n same token chosen claim => ?ends, fun own => ?marks⟩⟩
  case free =>
    rw [State.takeRevoke_unknown (s := heard s) unknown,
      (heard s).insertEntry_free ⟨tok, .revoked, none, none, x, false⟩ i unknown free]
    rfl
  case evicts =>
    rw [State.takeRevoke_unknown (s := heard s) unknown]
    obtain ⟨aq, q, e, records⟩ := insertEntry_evicting (s := heard s) (e := ⟨tok, .revoked, none, none, x, false⟩) unknown evicts
    refine ⟨_, rfl, ?_, ?_, ?_, fun unmasked => ?_⟩
    · rw [State.closingCheck_bays, e]; rfl
    · rw [State.closingCheck_tap, e]; rfl
    · rw [State.closingCheck_table, e]; rfl
    · rw [attentionPairs_of_aq (State.closingCheck_aq _)]
      exact records (working_of taken.1.1 taken.2.1) unmasked
  case revokes =>
    subst eq
    rw [State.takeRevoke_revokes (s := heard s) known status]
    rfl
  case ends =>
    subst eq
    subst same
    rcases claim with ⟨pending, phase⟩ | ⟨settling, phase, timer⟩
    · obtain ⟨q, ended, without⟩ := State.takeRevoke_pending (s := heard s) (x := x) known pending phase token taken.1.2.1
      rw [ended]
      obtain ⟨bay, others, tap, told, table, ce, rlc, _⟩ := claimOver_ends (c := c) (y := { heard s with
        table := revokedTable s.table T.id x, rlc := { (heard s).rlc with protocol := q } }) .revoked chosen
      refine ⟨_, rfl, table, fun _ => without.of_eq (congrArg RowLine.protocol rlc), fun h => ?_, ?_, bay, others, tap, told⟩
      · rw [pending] at h; cases h
      · rw [if_neg (by rw [pending]; nofun)]
        exact (congrArg ClaimEngine.settle ce :)
    · rw [State.takeRevoke_settling (s := heard s) (x := x) known settling timer phase token]
      obtain ⟨bay, others, tap, told, table, ce, rlc, _⟩ := claimOver_ends (c := c) (y := { heard s with
        table := revokedTable s.table T.id x, ce := { s.ce with settle := none } }) .revoked chosen
      refine ⟨_, rfl, table, fun h => ?_, fun _ => (congrArg RowLine.protocol rlc :), ?_, bay, others, tap, told⟩
      · rw [settling] at h; cases h
      · rw [if_pos settling]
        exact (congrArg ClaimEngine.settle ce :)
  case marks =>
    have marks := State.takeRevoke_marks (s := heard s) (x := x) known own
    obtain ⟨aq, q, raised⟩ := State.raise_sets { heard s with
      table := changedTable s.table tok (fun y => { y with revokedLate := true, expiry := laterStamp y.expiry x }) }
      .table .revokedLate
    have kept : ((heard s).takeRevoke tok x).bays = s.bays ∧ ((heard s).takeRevoke tok x).tap = s.tap ∧
        ((heard s).takeRevoke tok x).table =
          changedTable s.table tok (fun y => { y with revokedLate := true, expiry := laterStamp y.expiry x }) := by
      rw [marks]
      split
      · exact ⟨rfl, rfl, rfl⟩
      · exact ⟨(congrArg State.bays raised :), (congrArg State.tap raised :), (congrArg State.table raised :)⟩
    obtain ⟨bays, tap, table⟩ := kept
    refine ⟨_, rfl, (State.closingCheck_bays _).trans bays, (State.closingCheck_tap _).trans tap,
      (State.closingCheck_table _).trans table, fun late => ?_, fun new unmasked => ?_⟩
    · rw [State.closingCheck_aq, marks, if_pos late]
      rfl
    · rw [attentionPairs_of_aq (State.closingCheck_aq _), marks, if_neg (by rw [new]; nofun)]
      exact State.raise_records _ _ _ (working_of taken.1.1 taken.2.1) unmasked

end Sys2Proof.Safety
end

section
/-! SUPPORT. JoinsHeard: what a BEACON, a JOIN, a DUMP and a DUMP-END of another station do (R13, R15, R79 to R92). -/

namespace Sys2Proof.Machine

open Sys2Proof.Safety

/-! ### Entries merged -/

theorem Entry.merge_eq (e : Entry) (d : DumpEntry) : e.merge d = mergedEntry e d := by
  unfold Entry.merge mergedEntry
  cases status : e.status <;> cases incoming : d.status <;> simp [Entry.revoke]

theorem DumpEntry.inserted_eq (d : DumpEntry) : d.inserted = enteredEntry d := by
  unfold DumpEntry.inserted enteredEntry
  cases incoming : d.status <;> simp

theorem DumpEntry.inserted_token (d : DumpEntry) : d.inserted.token = d.token := by
  unfold DumpEntry.inserted
  split <;> rfl

/-- R19, R22, R29: one dump entry merged. -/
theorem State.merge_merges (s : State) (d : DumpEntry) : Merges s.table d (s.merge d).table := by
  unfold State.merge
  refine ⟨fun known => ?_, fun unknown i place => ?_⟩
  · rw [if_pos (show (s.entry d.token).isSome = true from Option.isSome_iff_ne_none.mpr known), s.updateEntry_change d.token (fun e => e.merge d)]
    simp only [Entry.merge_eq]
  · have new : s.entry d.inserted.token = none := by rw [d.inserted_token]; exact unknown
    rw [if_neg (by rw [show s.entry d.token = none from unknown]; nofun), ← d.inserted_eq]
    rcases place with free | evicts
    · rw [s.insertEntry_free d.inserted i new free]
    · obtain ⟨_, _, e, _⟩ := insertEntry_evicting new evicts
      rw [e]

/-- R88: the entries of a dump merged in their order. -/
theorem mergeAll_merges (entries : List DumpEntry) : ∀ s : State,
    MergesAll s.table entries (entries.foldl (fun x e => x.merge e) s).table := by
  induction entries with
  | nil => exact fun s => rfl
  | cons d rest ih => exact fun s => ⟨_, s.merge_merges d, ih (s.merge d)⟩

/-! ### The Join Unit -/

theorem JoinUnit.restartWindow_eq (j : JoinUnit) (ms seq : Nat) : j.restartWindow ms seq =
    if seq = 0 ∧ j.window ≠ none ∧ j.restartUsed = false then { j with window := some ms, restartUsed := true } else j := by
  unfold JoinUnit.restartWindow
  simp only [Option.isSome_iff_ne_none]

/-- R89: the tracking does not depend on the window, nor the window on the tracking. -/
theorem JoinUnit.track_restartWindow (j : JoinUnit) (d : Addr) (seq n ms : Nat) :
    (j.track d seq n).restartWindow ms seq = (j.restartWindow ms seq).track d seq n := by
  have same : (j.track d seq n).window = j.window ∧ (j.track d seq n).restartUsed = j.restartUsed := by
    unfold JoinUnit.track
    split
    · split
      · exact ⟨rfl, rfl⟩
      · split <;> exact ⟨rfl, rfl⟩
    · split <;> exact ⟨rfl, rfl⟩
  rw [JoinUnit.restartWindow_eq, JoinUnit.restartWindow_eq, same.1, same.2]
  split
  · unfold JoinUnit.track
    dsimp only
    split
    · split
      · rfl
      · split <;> rfl
    · split <;> rfl
  · rfl

/-- R89: the cases of the tracking. -/
theorem JoinUnit.track_cases (j : JoinUnit) (d : Addr) (seq n : Nat) :
    (seq = 0 → j.tracked = none ∨ j.tracked = some d →
      j.track d seq n = { j with tracked := some d, framesCounted := 1, entriesCounted := n }) ∧
    (j.tracked = some d → seq ≠ 0 → seq = j.framesCounted → j.track d seq n =
      { j with framesCounted := j.framesCounted + 1, entriesCounted := j.entriesCounted + n }) ∧
    (j.tracked = some d → seq ≠ 0 → seq ≠ j.framesCounted →
      j.track d seq n = { j with tracked := none, framesCounted := 0, entriesCounted := 0 }) ∧
    ((∃ x, j.tracked = some x ∧ x ≠ d) ∨ j.tracked = none ∧ seq ≠ 0 → j.track d seq n = j) := by
  unfold JoinUnit.track
  refine ⟨fun first who => ?_, fun tracked later expected => ?_, fun tracked later unexpected => ?_, fun who => ?_⟩
  · rcases who with none' | tracked
    · rw [none', if_neg nofun, if_pos ⟨rfl, first⟩]
    · rw [if_pos tracked, if_pos first, ← tracked]
  · rw [if_pos tracked, if_neg later, if_pos expected]
  · rw [if_pos tracked, if_neg later, if_neg unexpected]
  · rcases who with ⟨x, tracked, other⟩ | ⟨none', later⟩
    · rw [tracked, if_neg (by simpa using other), if_neg nofun]
    · rw [none', if_neg nofun, if_neg fun h => later h.2]

/-- R82, R88, R89: a DUMP heard in JOINING. -/
theorem State.takeDump_joining {s : State} (joining : s.mode = .joining) (d : Addr) (seq : Nat) (entries : List DumpEntry) :
    ∃ t aq q, s.takeDump d seq entries = { s with
      table := t, aq := aq, rlc := { s.rlc with service := q }
      ju := (s.ju.restartWindow (1000 * s.cfg.joinWindowS) seq).track d seq entries.length } ∧
      MergesAll s.table entries t := by
  have merges := mergeAll_merges entries s
  obtain ⟨t, aq, q, e⟩ := State.mergeAll_sets entries s
  refine ⟨t, aq, q, ?_, by rw [e] at merges; exact merges⟩
  unfold State.takeDump
  rw [if_pos joining]
  dsimp only
  rw [e, ← JoinUnit.track_restartWindow]
  rfl

/-- R82: a dump opening. -/
theorem State.takeOpening_cases (s : State) :
    (s.ju.dump = .stagger → s.takeOpening = { s with ju := { s.ju with dump := .idle, stagger := none } }) ∧
    (s.ju.dump = .dumping → s.takeOpening = { s with ju := { s.ju with owed := false } }) ∧
    (s.ju.dump = .idle → s.takeOpening = s) := by
  unfold State.takeOpening
  refine ⟨fun h => ?_, fun h => ?_, fun h => ?_⟩
  · rw [h]; rfl
  · rw [h]; rfl
  · rw [h]

/-- R92: the joiner's side at its reset values. -/
def joined (j : JoinUnit) : JoinUnit :=
  { j with window := none, tracked := none, framesCounted := 0, entriesCounted := 0, restartUsed := false, join := .off }

/-- R92: the end of the join with no attempt in flight. -/
theorem State.completeJoin_idle {s : State} (idle : s.rlc.attempt = none) : ∃ q, s.completeJoin = { s with
    mode := .service, ju := joined s.ju, rlc := { s.rlc with protocol := q } } ∧ Without (· = .join) s.rlc.protocol q := by
  obtain ⟨q, e, without⟩ := State.removeProtocol_idle (s.setJu (joined s.ju)) Frame.isJoin idle
  refine ⟨q, ?_, without_of_iff without isJoin_iff⟩
  change ((s.setJu (joined s.ju)).removeProtocol Frame.isJoin).setMode .service = _
  rw [e]
  rfl

/-- R15: what a DUMP-END's stamp leaves and does. -/
theorem State.takeDumperStamp_cases (s : State) (stamp : Option Stamp) :
    (∀ a, stamp = some a → s.ssu.state = .unset → s.takeDumperStamp stamp = s.takeStamp a) ∧
      (stamp = none ∨ s.ssu.state ≠ .unset → s.takeDumperStamp stamp = s) := by
  unfold State.takeDumperStamp
  refine ⟨fun a given unset => ?_, fun kept => ?_⟩
  · rw [given]
    exact if_pos unset
  · cases stamp with
    | none => rfl
    | some a => exact if_neg (kept.resolve_left nofun)

theorem State.takeDumperStamp_keeps (s : State) (stamp : Option Stamp) : (s.takeDumperStamp stamp).mode = s.mode ∧
    (s.takeDumperStamp stamp).rlc = s.rlc ∧ (s.takeDumperStamp stamp).ju = s.ju := by
  unfold State.takeDumperStamp
  split
  · split
    · exact ⟨rfl, rfl, rfl⟩
    · exact ⟨rfl, rfl, rfl⟩
  · exact ⟨rfl, rfl, rfl⟩

end Sys2Proof.Machine

namespace Sys2Proof.Safety

open Sys2Proof.Machine

/-! ### BEACON -/

theorem exec_beacon_taken {f : RowFrame} {s : State} {T : Stamp} (taken : TakenFromGateway 2 f s) (dest : f.dest = .all)
    (read : readBeacon f.payload = some T) : exec (.beacon f) s = .next ((heard s).takeBeacon T) :=
  congrArg Host.Outcome.next (s.receive_gateway .beacon f T _ _ taken read (by rw [dest]; rfl))

/-- R13: the cases of a BEACON. -/
theorem takeBeacon_cases (s : State) (T : Stamp) :
    (s.ssu.state = .unset → s.takeBeacon T = s.takeStamp T) ∧
    ∀ a, s.ssu.state ≠ .unset → s.ssu.stamp = some a → s.takeBeacon T =
      if a.toNat < T.toNat then s.takeStamp T
      else if T = a then s.setSsu ⟨some a, .set, some s.beaconLossMs, some Config.secondMs⟩
      else (s.setSsu { s.ssu with state := .set, beaconLoss := some s.beaconLossMs }).raise .stamp .clockAhead := by
  unfold State.takeBeacon
  refine ⟨fun unset => ?_, fun a known stamp => ?_⟩
  · rw [unset]
  · rw [stamp]
    cases state : s.ssu.state with
    | unset => exact absurd state known
    | set => rfl
    | stale => rfl

/-- Settles O21: the cases of `takeBeacon_cases`. -/
theorem beaconHeard : Obligations.BeaconHeard := by
  intro f s T a taken dest read
  rw [exec_beacon_taken taken dest read]
  obtain ⟨unset, known⟩ := takeBeacon_cases (heard s) T
  refine ⟨fun first => ?takes, fun state stamp same => ?same, fun state stamp ahead => ?ahead⟩
  case takes =>
    rcases first with h | ⟨state, stamp, later⟩
    · rw [unset h]
      rfl
    · rw [known a state stamp, if_pos later]
      rfl
  case same =>
    rw [known a state stamp, if_neg (by rw [same]; exact Nat.lt_irrefl _), if_pos same]
    rfl
  case ahead =>
    rw [known a state stamp, if_neg (Nat.not_lt.mpr (Nat.le_of_lt ahead)),
      if_neg (fun same => Nat.lt_irrefl _ (same ▸ ahead))]
    obtain ⟨aq, q, e⟩ := State.raise_sets ((heard s).setSsu { s.ssu with
      state := .set, beaconLoss := some (heard s).beaconLossMs }) .stamp .clockAhead
    exact ⟨_, rfl, (congrArg State.ssu e :), (congrArg State.table e :),
      fun unmasked => State.raise_records _ _ _ (working_of taken.1.1 taken.2.1) unmasked⟩

/-! ### JOIN -/

theorem exec_join_taken {f : RowFrame} {s : State} (taken : TakenFromAny 2 f s) (empty : f.payload = []) :
    exec (.join f) s = .next (heard s).takeJoin :=
  congrArg Host.Outcome.next (s.receive_any .join f () _ _ taken (by rw [empty]; rfl) rfl rfl)

theorem running_of {m : PostMode} (working : m.working = true) (joined : m ≠ .joining) : m.running = true := by
  cases m with
  | starting => cases working
  | configFault => cases working
  | joining => exact absurd rfl joined
  | service => rfl
  | hold => rfl
  | closing => rfl
  | maintenance => rfl

/-- R79, R81: the cases of a JOIN. -/
theorem takeJoin_cases (s : State) : (s.mode = .joining → s.takeJoin = s) ∧ (s.mode.running = true →
    (s.ju.dump = .idle → s.takeJoin = if s.strap.toNat * s.cfg.dumpStaggerMs = 0 then s.beginDump
      else s.setJu { s.ju with dump := .stagger, stagger := some (s.strap.toNat * s.cfg.dumpStaggerMs) }) ∧
    (s.ju.dump = .stagger → s.takeJoin = s) ∧
    (s.ju.dump = .dumping → s.takeJoin = s.setJu { s.ju with owed := true })) := by
  unfold State.takeJoin
  refine ⟨fun joining => by rw [joining]; rfl, fun running => ?_⟩
  rw [if_pos running]
  refine ⟨fun h => ?_, fun h => ?_, fun h => ?_⟩
  · rw [h]
  · rw [h]
  · rw [h]

/-- Settles O22: the cases of `takeJoin_cases`, a dump begun being `State.queueProtocol_room`. -/
theorem joinHeard : Obligations.JoinHeard := by
  intro f s taken empty
  rw [exec_join_taken taken empty]
  obtain ⟨joining, answered⟩ := takeJoin_cases (heard s)
  refine ⟨fun mode => congrArg Host.Outcome.next (joining mode), fun out => ?_⟩
  obtain ⟨idle, stagger, dumping⟩ := answered (running_of (working_of taken.1.1 taken.2.1) out)
  refine ⟨fun h delay => ?delayed, fun h none' room => ?begun, fun h => congrArg Host.Outcome.next (stagger h),
    fun h => congrArg Host.Outcome.next (dumping h)⟩
  case delayed =>
    rw [idle h, if_neg (show ¬(heard s).strap.toNat * (heard s).cfg.dumpStaggerMs = 0 from Nat.ne_of_gt delay)]
    rfl
  case begun =>
    rw [idle h, if_pos (show (heard s).strap.toNat * (heard s).cfg.dumpStaggerMs = 0 from none')]
    refine ⟨_, s.rlc.protocol.take (rankPlace .dump s.rlc.protocol), s.rlc.protocol.drop (rankPlace .dump s.rlc.protocol), rfl, ?_⟩
    have queued := State.queueProtocol_room (s := (heard s).setJu { s.ju with
      dump := .dumping, stagger := none, owed := false, cursor := .index 0, nextSeq := 0, framesSent := 0,
      entriesSent := 0 }) .dump room
    exact ⟨(congrArg State.mode queued :), (congrArg State.table queued :), (List.take_append_drop ..).symm,
      (congrArg (fun x => x.rlc.protocol) queued :), (congrArg State.ju queued :)⟩

/-! ### DUMP -/

theorem exec_dump_taken {f : RowFrame} {s : State} {seq : Nat} {entries : List DumpEntry} (taken : TakenFromAny 3 f s)
    (read : readDump f.payload = some (seq, entries)) :
    exec (.dump f) s = .next ((heard s).takeDump f.source seq entries) :=
  congrArg Host.Outcome.next (s.receive_any .dump f (seq, entries) _ _ taken read rfl rfl)

/-- Settles O23: out of JOINING a DUMP is at most an opening (`State.takeOpening_cases`); in JOINING its entries are merged and its
tracking is `JoinUnit.track_cases` (`State.takeDump_joining`). -/
theorem dumpHeard : Obligations.DumpHeard := by
  intro f s seq entries taken read
  rw [exec_dump_taken taken read]
  obtain ⟨stagger, dumping, _⟩ := (heard s).takeOpening_cases
  refine ⟨fun out later => ?later, fun out first h => ?stagger, fun out first h => ?dumping, fun mode => ?merges,
    fun mode tracked expected later => ?counted, fun mode j eq => ?tracking⟩
  case later =>
    unfold State.takeDump
    rw [if_neg (show ¬(heard s).mode = .joining from out), if_neg later]
  case stagger =>
    unfold State.takeDump
    rw [if_neg (show ¬(heard s).mode = .joining from out), if_pos first, stagger h]
    rfl
  case dumping =>
    unfold State.takeDump
    rw [if_neg (show ¬(heard s).mode = .joining from out), if_pos first, dumping h]
    rfl
  all_goals obtain ⟨t, aq, q, e, merges⟩ := State.takeDump_joining (s := heard s) mode f.source seq entries
  all_goals rw [e]
  case merges => exact ⟨_, rfl, merges, rfl, rfl, rfl⟩
  case counted =>
    refine ⟨_, rfl, mode, ?_⟩
    have still : s.ju.restartWindow (1000 * s.cfg.joinWindowS) seq = s.ju := if_neg fun h => later h.1
    obtain ⟨_, counts, _⟩ := s.ju.track_cases f.source seq entries.length
    change (s.ju.restartWindow (1000 * s.cfg.joinWindowS) seq).track f.source seq entries.length = _
    rw [still, counts tracked later expected]
  case tracking =>
    have window : s.ju.restartWindow (1000 * s.cfg.joinWindowS) seq = j := (JoinUnit.restartWindow_eq ..).trans eq.symm
    have same : j.tracked = s.ju.tracked ∧ j.framesCounted = s.ju.framesCounted := by
      rw [eq]
      split <;> exact ⟨rfl, rfl⟩
    obtain ⟨first, _, ends, other⟩ := j.track_cases f.source seq entries.length
    rw [same.1] at first ends other
    rw [same.2] at ends
    refine ⟨fun zero who => ⟨_, rfl, mode, ?_⟩, fun tracked later unexpected => ⟨_, rfl, mode, ?_⟩, fun who => ⟨_, rfl, mode, ?_⟩⟩
    all_goals
      change (s.ju.restartWindow (1000 * s.cfg.joinWindowS) seq).track f.source seq entries.length = _
      rw [window]
    · exact first zero who
    · exact ends tracked later unexpected
    · exact other who

/-! ### DUMP-END -/

theorem exec_dumpEnd_taken {f : RowFrame} {s : State} {frames entries : Nat} {stamp : Option Stamp} (taken : TakenFromAny 3 f s)
    (read : readDumpEnd f.payload = some (frames, entries, stamp)) :
    exec (.dumpEnd f) s = .next ((heard s).takeDumpEnd f.source frames entries stamp) :=
  congrArg Host.Outcome.next (s.receive_any .dumpEnd f (frames, entries, stamp) _ _ taken read rfl rfl)

/-- R15, R82, R90: what the Join Unit makes of a DUMP-END, before the stamp is taken. -/
def answered (s : State) (d : Addr) (frames entries : Nat) : State :=
  if s.mode = .joining then s.testDumpEnd d frames entries else if frames = 0 then s.takeOpening else s

theorem takeDumpEnd_eq (s : State) (d : Addr) (frames entries : Nat) (stamp : Option Stamp) :
    s.takeDumpEnd d frames entries stamp = (answered s d frames entries).takeDumperStamp stamp := rfl

theorem answered_keeps {s : State} (d : Addr) (frames entries : Nat) :
    (answered s d frames entries).ssu = s.ssu ∧ (answered s d frames entries).table = s.table ∧
      (answered s d frames entries).image = s.image := by
  have join : s.completeJoin.ssu = s.ssu ∧ s.completeJoin.table = s.table ∧ s.completeJoin.image = s.image := by
    obtain ⟨_, _, e⟩ := State.removeProtocol_sets (s.setJu (joined s.ju)) Frame.isJoin
    change (((s.setJu (joined s.ju)).removeProtocol Frame.isJoin).setMode .service).ssu = _ ∧
      (((s.setJu (joined s.ju)).removeProtocol Frame.isJoin).setMode .service).table = _ ∧
      (((s.setJu (joined s.ju)).removeProtocol Frame.isJoin).setMode .service).image = _
    rw [e]
    exact ⟨rfl, rfl, rfl⟩
  unfold answered
  split
  · unfold State.testDumpEnd
    split
    · split
      · exact join
      · exact ⟨rfl, rfl, rfl⟩
    · split
      · exact join
      · exact ⟨rfl, rfl, rfl⟩
  · split
    · unfold State.takeOpening
      split <;> exact ⟨rfl, rfl, rfl⟩
    · exact ⟨rfl, rfl, rfl⟩

/-- R90: the counts that end the join, those that end the tracking, and the DUMP-ENDs of others. -/
theorem testDumpEnd_cases (s : State) (d : Addr) (frames entries : Nat) :
    (s.ju.tracked = some d ∧ frames = s.ju.framesCounted ∧ entries = s.ju.entriesCounted ∨ s.ju.tracked = none ∧ frames = 0 →
      s.testDumpEnd d frames entries = s.completeJoin) ∧
    (s.ju.tracked = some d → ¬(frames = s.ju.framesCounted ∧ entries = s.ju.entriesCounted) →
      s.testDumpEnd d frames entries = s.setJu { s.ju with tracked := none, framesCounted := 0, entriesCounted := 0 }) ∧
    ((∃ x, s.ju.tracked = some x ∧ x ≠ d) ∨ s.ju.tracked = none ∧ frames ≠ 0 → s.testDumpEnd d frames entries = s) := by
  unfold State.testDumpEnd
  refine ⟨fun ends => ?_, fun tracked unequal => ?_, fun other => ?_⟩
  · rcases ends with ⟨tracked, counts⟩ | ⟨none', zero⟩
    · rw [if_pos tracked, if_pos counts]
    · rw [none', if_neg nofun, if_pos ⟨rfl, zero⟩]
  · rw [if_pos tracked, if_neg unequal]
  · rcases other with ⟨x, tracked, differs⟩ | ⟨none', counted⟩
    · rw [tracked, if_neg (by simpa using differs), if_neg nofun]
    · rw [none', if_neg nofun, if_neg fun h => counted h.2]

/-- Settles O24: what the Join Unit makes of it is `testDumpEnd_cases` or `State.takeOpening_cases`, and what the stamp unit takes
is `State.takeDumperStamp_cases`. -/
theorem dumpEndHeard : Obligations.DumpEndHeard := by
  intro f s frames entries stamp taken read
  rw [exec_dumpEnd_taken taken read, takeDumpEnd_eq]
  obtain ⟨mode, rlc, ju⟩ := (answered (heard s) f.source frames entries).takeDumperStamp_keeps stamp
  obtain ⟨takes, keeps⟩ := (answered (heard s) f.source frames entries).takeDumperStamp_cases stamp
  obtain ⟨ssu, table, image⟩ := answered_keeps (s := heard s) f.source frames entries
  refine ⟨fun joining => ?joining, fun out => ?out, fun a stamped unset => ?given, fun kept => ?kept⟩
  case joining =>
    have tested : answered (heard s) f.source frames entries = (heard s).testDumpEnd f.source frames entries := if_pos joining
    obtain ⟨ends, clears, others⟩ := testDumpEnd_cases (heard s) f.source frames entries
    rw [tested] at mode rlc ju ⊢
    refine ⟨fun equal => ?_, fun tracked unequal => ?_, fun other => ?_⟩
    · obtain ⟨q, e, without⟩ := State.completeJoin_idle (s := heard s) taken.1.2.1
      rw [ends equal, e] at mode rlc ju ⊢
      exact ⟨_, rfl, mode, without.of_eq (congrArg RowLine.protocol rlc), ju⟩
    · rw [clears tracked unequal] at mode rlc ju ⊢
      exact ⟨_, rfl, mode.trans joining, (congrArg RowLine.protocol rlc :), ju⟩
    · rw [others other] at mode rlc ju ⊢
      exact ⟨_, rfl, mode.trans joining, (congrArg RowLine.protocol rlc :), ju⟩
  case out =>
    have opened : answered (heard s) f.source frames entries = if frames = 0 then (heard s).takeOpening else heard s := if_neg out
    obtain ⟨stagger, dumping, idle⟩ := (heard s).takeOpening_cases
    have still : (answered (heard s) f.source frames entries).mode = s.mode ∧
        (answered (heard s) f.source frames entries).rlc.protocol = s.rlc.protocol := by
      rw [opened]
      split
      · unfold State.takeOpening
        split <;> exact ⟨rfl, rfl⟩
      · exact ⟨rfl, rfl⟩
    refine ⟨_, rfl, mode.trans still.1, (congrArg RowLine.protocol rlc).trans still.2, fun zero h => ?_, fun zero h => ?_, fun h => ?_⟩
    · rw [ju, opened, if_pos zero, stagger h]
      rfl
    · rw [ju, opened, if_pos zero, dumping h]
      rfl
    · rw [ju, opened]
      by_cases zero : frames = 0
      · rw [if_pos zero, idle (h.resolve_left fun k => k zero)]
        rfl
      · rw [if_neg zero]
        rfl
  case given =>
    rw [takes a stamped (by rw [ssu]; exact unset)]
    refine ⟨_, rfl, ?_, ?_⟩
    · change SiteStamp.mk _ _ (some (State.beaconLossMs _)) _ = _
      unfold State.beaconLossMs State.cfg
      rw [image]
      rfl
    · change (answered (heard s) f.source frames entries).table.map _ = _
      rw [table]
      rfl
  case kept =>
    rw [keeps (by rw [ssu]; exact kept)]
    exact ⟨_, rfl, ssu, table⟩

end Sys2Proof.Safety
end

section
/-! SUPPORT. Discards: frames refused at their reception (R39, R51 to R54), and the timers of the Join Unit and of the stamp (R14,
R79, R83, R91, R92). -/

namespace Sys2Proof.Machine

open Sys2Proof.Safety

/-! ### Receptions without effect -/

/-- R51: a frame that fails a test of its reception. -/
theorem State.receive_refused {α : Type} {s : State} (k : FrameKind) {f : RowFrame} (payload : Option α) (act : α → State → State)
    (h : Heard f s) (refused : payload = none ∨ s.admits k f = false) : s.receive k f payload act = heard s := by
  unfold State.receive
  rw [if_pos (s.hearing_of f h)]
  dsimp only
  rw [if_neg h.2.2]
  cases payload with
  | none => rfl
  | some x => exact if_neg (by rw [refused.resolve_left nofun]; nofun)

/-- R39: a frame with the post's own address as its source. -/
theorem State.receive_own {α : Type} {s : State} (k : FrameKind) {f : RowFrame} (payload : Option α) (act : α → State → State)
    (started : s.mode ≠ .starting) (idle : s.rlc.attempt = none) (own : f.source = s.strap) :
    s.receive k f payload act = (heard s).raise .line .duplicateAddress := by
  have hearing : s.hearing = true := by
    unfold State.hearing
    rw [idle]
    simpa using started
  unfold State.receive
  rw [if_pos hearing]
  exact if_pos own

/-- R51: the tests a frame of a kind fails. -/
theorem State.admits_false {s : State} {k : FrameKind} {f : RowFrame}
    (why : f.rank.toNat ≠ k.rank ∨ k.allows f.dest = false ∨ ¬Reaches f.dest s.strap ∨
      k.gatewayOnly = true ∧ s.mode ≠ .configFault ∧ f.source ≠ s.cfg.gateway ∨ s.mode = .configFault ∧ k ≠ .statusQuery) :
    s.admits k f = false := by
  unfold State.admits
  rcases why with rank | form | reaches | ⟨gateway, configured, source⟩ | ⟨fault, kind⟩
  · simp [rank]
  · simp [form]
  · rw [← destinationNames_iff, Bool.not_eq_true] at reaches
    simp [reaches]
  · simp [gateway, configured, source]
  · simp [fault, kind, PostMode.working]

/-! ### A frame removed while an attempt is in flight -/

theorem Attempt.lost_place (a : Attempt) (side : QueueSide) (i : Nat) :
    (a.lost side i).place = if a.side = side ∧ i < a.place then a.place - 1 else a.place := by
  unfold Attempt.lost
  split <;> rfl

/-- R45: the frame in flight is marked as removed where it is the one named; otherwise the attempt goes on with its frame. -/
theorem State.removeProtocol_flying {s : State} {a : Attempt} {q : Queued} (p : Frame → Bool) (attempt : s.rlc.attempt = some a)
    (frame : (s.side a.side)[a.place]? = some q) :
    (p q.frame = true → a.side = .protocol → (∀ y ∈ s.rlc.protocol.take a.place, p y.frame = false) →
      s.removeProtocol p = { s with rlc := { s.rlc with attempt := some { a with removed := true } } }) ∧
    (p q.frame = false → ∃ r i, s.removeProtocol p = { s with rlc := { s.rlc with
        protocol := r, attempt := some { a with place := i } } } ∧ Without (fun f => p f = true) s.rlc.protocol r ∧
      (if a.side = .protocol then r else s.rlc.service)[i]? = some q) := by
  have side : (if a.side = .protocol then s.rlc.protocol else s.rlc.service)[a.place]? = some q := by
    rw [← frame]
    unfold State.side
    cases a.side <;> rfl
  unfold State.removeProtocol
  refine ⟨fun named own first => ?_, fun other => ?_⟩
  · rw [if_pos own] at side
    obtain ⟨bound, eq⟩ := List.getElem?_eq_some_iff.mp side
    have found : s.rlc.protocol.findIdx? (fun x => p x.frame) = some a.place := by
      rw [List.findIdx?_eq_some_iff_getElem]
      refine ⟨bound, by rw [eq]; exact named, fun j less => ?_⟩
      rw [Bool.not_eq_true]
      exact first _ (List.mem_take_iff_getElem.mpr ⟨j, by omega, rfl⟩)
    rw [found, attempt]
    exact if_pos (by simp [Attempt.at, own])
  · cases found : s.rlc.protocol.findIdx? (fun x => p x.frame) with
    | none =>
      refine ⟨s.rlc.protocol, a.place, ?_, without_self p _ found, side⟩
      change s = { s with rlc := { s.rlc with attempt := some a } }
      rw [← attempt]
    | some j =>
      refine ⟨s.rlc.protocol.eraseIdx j, (a.lost .protocol j).place, ?_, without_eraseIdx p _ j found, ?_⟩
      all_goals
        have apart : a.side = .protocol → a.place ≠ j := by
          intro own same
          rw [if_pos own, same] at side
          obtain ⟨bound, named, _⟩ := List.findIdx?_eq_some_iff_getElem.mp found
          rw [(List.getElem?_eq_some_iff.mp side).2, other] at named
          cases named
      · rw [attempt]
        refine (if_neg (by simpa [Attempt.at] using apart)).trans ?_
        unfold Attempt.lost
        split <;> rfl
      · by_cases own : a.side = .protocol
        · have beside := apart own
          rw [if_pos own] at side ⊢
          by_cases before : j < a.place
          · rw [Attempt.lost_place, if_pos ⟨own, before⟩, List.getElem?_eraseIdx, if_neg (by omega),
              Nat.sub_add_cancel (by omega)]
            exact side
          · rw [Attempt.lost_place, if_neg fun h => before h.2, List.getElem?_eraseIdx, if_pos (by omega)]
            exact side
        · rw [if_neg own] at side ⊢
          rw [Attempt.lost_place, if_neg fun h => own h.1]
          exact side

/-- R92: the post in SERVICE, its joiner's side at the reset values. -/
def State.inService (s : State) : State := { s with mode := .service, ju := joined s.ju }

theorem State.completeJoin_eq (s : State) : s.completeJoin = s.inService.removeProtocol Frame.isJoin := by
  change ((s.setJu (joined s.ju)).removeProtocol Frame.isJoin).setMode .service = _
  unfold State.removeProtocol
  cases found : s.rlc.protocol.findIdx? (fun x => x.frame.isJoin) with
  | none =>
    rw [show (s.setJu (joined s.ju)).rlc.protocol.findIdx? (fun x => x.frame.isJoin) = none from found,
      show s.inService.rlc.protocol.findIdx? (fun x => x.frame.isJoin) = none from found]
    rfl
  | some i =>
    rw [show (s.setJu (joined s.ju)).rlc.protocol.findIdx? (fun x => x.frame.isJoin) = some i from found,
      show s.inService.rlc.protocol.findIdx? (fun x => x.frame.isJoin) = some i from found]
    cases attempt : s.rlc.attempt with
    | none =>
      rw [show (s.setJu (joined s.ju)).rlc.attempt = none from attempt, show s.inService.rlc.attempt = none from attempt]
      rfl
    | some a =>
      rw [show (s.setJu (joined s.ju)).rlc.attempt = some a from attempt, show s.inService.rlc.attempt = some a from attempt]
      dsimp only
      split <;> rfl

end Sys2Proof.Machine

namespace Sys2Proof.Safety

open Sys2Proof.Machine

/-! ### Discarded frames -/

/-- R52, R56: a frame command is the reception of its row. -/
theorem exec_row {c : Instr} {w : FrameRow} (row : frameRow c = some w) (s : State) :
    ∃ (α : Type) (k : FrameKind) (payload : Option α) (act : α → State → State),
      exec c s = .next (s.receive k w.frame payload act) ∧
        w = ⟨w.frame, k.rank, k.gatewayOnly, k.allows w.frame.dest, payload.isSome⟩ ∧
        (k = .statusQuery → ∃ q, c = .statusQuery q) := by
  have all (f : RowFrame) (k : FrameKind) (one : ∀ x, k.allows (.one x) = false) (span : ∀ x y, k.allows (.span x y) = false)
      (form : k.allows .all = true) : isAll f.dest = k.allows f.dest := by
    cases f.dest with
    | one x => exact (one x).symm
    | span x y => exact (span x y).symm
    | all => exact form.symm
  have one (f : RowFrame) (k : FrameKind) (form : ∀ x, k.allows (.one x) = true) (span : ∀ x y, k.allows (.span x y) = false)
      (all : k.allows .all = false) : isOne f.dest = k.allows f.dest := by
    cases f.dest with
    | one x => exact (form x).symm
    | span x y => exact (span x y).symm
    | all => exact all.symm
  have many (f : RowFrame) : (!isOne f.dest) = FrameKind.allows .revoke f.dest := by cases f.dest <;> rfl
  have row' {a b : Bool} {f : RowFrame} {n : Nat} {g r : Bool} (h : a = b) : (⟨f, n, g, a, r⟩ : FrameRow) = ⟨f, n, g, b, r⟩ := by rw [h]
  cases c with
  | object f => cases row; exact ⟨_, .object, _, _, rfl, row' (all f _ (fun _ => rfl) (fun _ _ => rfl) rfl), nofun⟩
  | claim f => cases row; exact ⟨_, .claim, _, _, rfl, row' (all f _ (fun _ => rfl) (fun _ _ => rfl) rfl), nofun⟩
  | lapse f => cases row; exact ⟨_, .lapse, _, _, rfl, row' (all f _ (fun _ => rfl) (fun _ _ => rfl) rfl), nofun⟩
  | revoke f => cases row; exact ⟨_, .revoke, _, _, rfl, row' (many f), nofun⟩
  | beacon f => cases row; exact ⟨_, .beacon, _, _, rfl, row' (all f _ (fun _ => rfl) (fun _ _ => rfl) rfl), nofun⟩
  | join f => cases row; exact ⟨_, .join, _, _, rfl, row' (all f _ (fun _ => rfl) (fun _ _ => rfl) rfl), nofun⟩
  | dump f => cases row; exact ⟨_, .dump, _, _, rfl, row' (all f _ (fun _ => rfl) (fun _ _ => rfl) rfl), nofun⟩
  | dumpEnd f => cases row; exact ⟨_, .dumpEnd, _, _, rfl, row' (all f _ (fun _ => rfl) (fun _ _ => rfl) rfl), nofun⟩
  | logFetch f => cases row; exact ⟨_, .logFetch, _, _, rfl, row' (one f _ (fun _ => rfl) (fun _ _ => rfl) rfl), nofun⟩
  | logClear f => cases row; exact ⟨_, .logClear, _, _, rfl, row' (one f _ (fun _ => rfl) (fun _ _ => rfl) rfl), nofun⟩
  | statusQuery f =>
    cases row
    exact ⟨_, .statusQuery, _, _, rfl, row' (one f _ (fun _ => rfl) (fun _ _ => rfl) rfl), fun _ => ⟨f, rfl⟩⟩
  | hold f | resume f | maintainEnter f | maintainExit f | hush f | unhush f | faultClear f | serviceOpen f | serviceClose f
  | relatchOpen f | patrolNow f | restart f =>
    cases row
    exact ⟨_, .action, _, _, rfl, row' (FrameKind.action_allows f.dest).symm, nofun⟩
  | _ => cases row

/-- Settles O26: the command of a row is its reception (`exec_row`), which the own-address test or a refusal ends. -/
theorem discardedFrames : Obligations.DiscardedFrames := by
  intro k code f s
  refine ⟨fun h => ⟨congrArg Host.Outcome.next ?_, congrArg Host.Outcome.next ?_⟩, fun c w row h refused => ?_,
    fun working idle unmasked => ?_⟩
  · by_cases admitted : s.admits (serviceKind k) f = true
    · unfold State.receive
      rw [if_pos (s.hearing_of f h)]
      dsimp only
      rw [if_neg h.2.2, if_pos admitted]
      rfl
    · exact State.receive_refused _ _ _ h (.inr (by simpa using admitted))
  · rw [if_pos (s.hearing_of f h)]
    exact if_neg h.2.2
  · obtain ⟨_, kind, payload, act, e, eq, query⟩ := exec_row row s
    rw [e]
    refine congrArg Host.Outcome.next (State.receive_refused kind payload act h ?_)
    rw [eq] at refused
    rcases refused with reads | refused
    · exact .inl (by simpa using reads)
    · refine .inr (State.admits_false ?_)
      rcases refused with rank | form | reaches | gateway | ⟨fault, other⟩
      · exact .inl rank
      · exact .inr (.inl form)
      · exact .inr (.inr (.inl reaches))
      · exact .inr (.inr (.inr (.inl gateway)))
      · refine .inr (.inr (.inr (.inr ⟨fault, fun same => ?_⟩)))
        obtain ⟨q, is⟩ := query same
        exact other q is
  · have started : s.mode ≠ .starting := by
      intro starting
      rw [starting] at working
      cases working
    obtain ⟨aq, q, e⟩ := (heard s).raise_sets .line .duplicateAddress
    refine ⟨_, exec_ownAddress started idle, (heard s).raise_records _ _ working unmasked, (congrArg State.table e :),
      (congrArg State.tap e :), (congrArg State.bays e :), (congrArg State.store e :),
      (congrArg (fun x => x.rlc.protocol) e :), fun own => ⟨congrArg Host.Outcome.next ?_, congrArg Host.Outcome.next ?_⟩,
      fun c w row own => ?_⟩
    · exact State.receive_own _ _ _ started idle own
    · have hearing : s.hearing = true := by
        unfold State.hearing
        rw [idle]
        simpa using started
      rw [if_pos hearing]
      exact if_pos own
    · obtain ⟨_, kind, payload, act, is, _, _⟩ := exec_row row s
      rw [is, State.receive_own kind payload act started idle own]

/-! ### Timers -/

/-- R91, R92: the end of the join window. -/
theorem exec_joinWindowExpiry {s : State} (joining : s.mode = .joining) (window : s.ju.window ≠ none) :
    exec .joinWindowExpiry s = .next ((s.inService.removeProtocol Frame.isJoin).raise .post .coldJoin) := by
  rw [← State.completeJoin_eq]
  exact congrArg Host.Outcome.next (if_pos ⟨joining, Option.isSome_iff_ne_none.mpr window⟩)

/-- Settles O33: a raise after the change for the stamp, `State.queueProtocol_mem` for the JOIN, `State.removeProtocol_flying` for
the JOIN that leaves, and `State.beginDump_room` for the dump. -/
theorem beaconLossAndJoinTimers : Obligations.BeaconLossAndJoinTimers := by
  refine ⟨fun s running => ?loss, fun s => ⟨fun joining waits room => ?announces, fun joining window => ?ends, fun stagger room => ?dumps⟩⟩
  case loss =>
    obtain ⟨aq, q, e⟩ := (s.setSsu { s.ssu with state := .stale, beaconLoss := none }).raise_sets .stamp .stampStale
    refine ⟨_, congrArg Host.Outcome.next (if_pos (Option.isSome_iff_ne_none.mpr running)), (congrArg State.ssu e :),
      (congrArg State.table e :), (congrArg State.bays e :), (congrArg State.tap e :), fun working unmasked => ?_⟩
    exact State.raise_records _ _ _ working unmasked
  case announces =>
    refine ⟨_, congrArg Host.Outcome.next (if_pos ⟨joining, waits⟩), State.queueProtocol_mem _ _ room, ?_⟩
    obtain ⟨p, a, e⟩ := (s.setJu { s.ju with join := .announcing, window := some s.joinWindowMs }).queueProtocol_sets .join
    rw [e]
    exact ⟨joining, rfl, rfl⟩
  case ends =>
    obtain ⟨p, at', removed⟩ := s.inService.removeProtocol_sets Frame.isJoin
    obtain ⟨aq, q, raised⟩ := (s.inService.removeProtocol Frame.isJoin).raise_sets .post .coldJoin
    obtain ⟨l, more⟩ := (s.inService.removeProtocol Frame.isJoin).raise_service .post .coldJoin
    have same : ((s.inService.removeProtocol Frame.isJoin).raise .post .coldJoin).rlc.protocol =
        (s.inService.removeProtocol Frame.isJoin).rlc.protocol ∧
        ((s.inService.removeProtocol Frame.isJoin).raise .post .coldJoin).rlc.attempt =
          (s.inService.removeProtocol Frame.isJoin).rlc.attempt :=
      ⟨(congrArg (fun x => x.rlc.protocol) raised :), (congrArg (fun x => x.rlc.attempt) raised :)⟩
    refine ⟨_, exec_joinWindowExpiry joining window, ?_, ?_, ?_, ?_, fun unmasked => ?_, fun idle => ?_, fun a w attempt frame => ?_⟩
    · rw [raised, removed]
      rfl
    · rw [raised, removed]
      rfl
    · rw [raised, removed]
      rfl
    · rw [raised, removed]
      rfl
    · refine State.raise_records _ _ _ ?_ ?_
      · rw [removed]
        rfl
      · rw [removed]
        exact unmasked
    · obtain ⟨r, gone, without⟩ := State.removeProtocol_idle s.inService Frame.isJoin idle
      rw [same.1, same.2, gone]
      exact ⟨without_of_iff without isJoin_iff, idle⟩
    · obtain ⟨marked, leaves⟩ := State.removeProtocol_flying (s := s.inService) Frame.isJoin attempt frame
      refine ⟨fun join own first => ?_, fun other => ?_⟩
      · rw [same.1, same.2, marked ((isJoin_iff _).mpr join) own fun y mem => by
          rw [← Bool.not_eq_true, isJoin_iff]
          exact first y mem]
        exact ⟨rfl, rfl⟩
      · obtain ⟨r, i, gone, without, place⟩ := leaves (by rw [← Bool.not_eq_true, isJoin_iff]; exact other)
        have kept : (s.inService.removeProtocol Frame.isJoin).rlc = { s.rlc with
            protocol := r, attempt := some { a with place := i } } := congrArg State.rlc gone
        rw [kept] at same more
        refine ⟨without_of_iff (without.of_eq same.1) isJoin_iff, i, same.2, ?_⟩
        unfold State.side
        cases side : a.side with
        | protocol =>
          rw [side] at place
          exact (congrArg (·[i]?) same.1).trans place
        | service =>
          rw [side] at place
          have place : s.rlc.service[i]? = some w := place
          refine (congrArg (·[i]?) more).trans ?_
          change (s.rlc.service ++ l)[i]? = some w
          rw [List.getElem?_append_left (List.getElem?_eq_some_iff.mp place).1]
          exact place
  case dumps =>
    obtain ⟨queued, table, ju⟩ := State.beginDump_room room
    exact ⟨_, congrArg Host.Outcome.next (if_pos stagger), queued, table, ju⟩

end Sys2Proof.Safety
end

section
/-! SUPPORT. RowActions: the row actions at their reception (R10, R107, R168 to R170). -/

namespace Sys2Proof.Machine

open Sys2Proof.Safety

/-! ### The check in CLOSING -/

/-- R178: with a transaction under way the post is not idle. -/
theorem State.closingCheck_busy {s : State} (busy : s.tap.phase ≠ .idle) : s.closingCheck = s :=
  if_neg fun h => busy ((State.allBaysIdle_iff s).mp h.2).1

/-- R169: the mode MAINTAIN-ENTER gives is the one the check leaves. -/
theorem State.closingCheck_entered (s : State) :
    (s.setMode (if s.allBaysIdle = true then .maintenance else .closing)).closingCheck =
      s.setMode (if s.allBaysIdle = true then .maintenance else .closing) := by
  by_cases idle : s.allBaysIdle = true
  · rw [if_pos idle]
    exact State.closingCheck_of_not_closing _ nofun
  · rw [if_neg idle]
    exact if_neg fun h => idle h.2

/-! ### Leaving SERVICE -/

/-- R107: the phases a departure from SERVICE leaves alone. -/
theorem State.abort_still {s : State}
    (phase : s.tap.phase = .idle ∨ s.tap.phase = .settling ∨ s.tap.phase = .releaseStart ∨ s.tap.phase = .verdict) :
    s.abort = s := by
  unfold State.abort
  rcases phase with h | h | h | h <;> rw [h]

theorem State.abort_intake {s : State} (phase : s.tap.phase = .intake) : s.abort = s.setTap { s.tap with closed := true } := by
  unfold State.abort
  rw [phase]

theorem State.abort_checking {s : State} (phase : s.tap.phase = .checking) :
    s.abort = (s.setTcu ⟨false, none⟩).endTransaction .postClosed := by
  unfold State.abort
  rw [phase]

/-- R107: a claim before its echo is given up. -/
theorem State.abort_claiming {s : State} {tok : Token} (phase : s.tap.phase = .claiming) (token : s.tap.token = some tok)
    (idle : s.rlc.attempt = none) :
    ∃ q, s.abort = State.claimOver { s with
        table := s.table.map (fun slot => slot.filter (fun e => !(e.token == tok.id && e.status == .ownPending)))
        rlc := { s.rlc with protocol := q } } .postClosed ∧ Without (ClaimFor tok.id) s.rlc.protocol q := by
  obtain ⟨q, e, without⟩ := State.withdrawClaim_idle (s.updateEntry tok.id fun e => if e.status = .ownPending then none else some e)
    tok.id idle
  refine ⟨q, ?_, without⟩
  have aborted : s.abort = ((s.updateEntry tok.id fun e => if e.status = .ownPending then none else some e).withdrawClaim
      tok.id).claimOver .postClosed := by
    unfold State.abort
    rw [phase]
    dsimp only
    rw [token]
  rw [aborted, e, State.updateEntry_remove]

theorem State.claimOver_mode (s : State) (v : Verdict) : (s.claimOver v).closingCheck.mode = s.mode := by
  obtain ⟨_, _, e⟩ := s.claimOver_sets v
  rw [e, State.closingCheck_busy (by nofun)]

/-- R169: MAINTAIN-ENTER by mode. -/
theorem State.maintainEnter_cases (s : State) :
    (s.mode = .service → s.maintainEnter = s.leaveService (if s.allBaysIdle = true then .maintenance else .closing)) ∧
    (s.mode = .hold → s.maintainEnter = s.setMode (if s.allBaysIdle = true then .maintenance else .closing)) ∧
    (s.mode ≠ .service → s.mode ≠ .hold → s.maintainEnter = s) := by
  unfold State.maintainEnter
  refine ⟨fun h => by rw [h], fun h => by rw [h], fun serves holds => ?_⟩
  cases mode : s.mode with
  | service => exact absurd mode serves
  | hold => exact absurd mode holds
  | starting => rfl
  | configFault => rfl
  | joining => rfl
  | closing => rfl
  | maintenance => rfl

end Sys2Proof.Machine

namespace Sys2Proof.Safety

open Sys2Proof.Machine

/-! ### Immediate actions -/

theorem exec_hold_taken {f : RowFrame} {s : State} {bay : Option Bay} (taken : TakenAction .hold bay f s) :
    exec (.hold f) s = .next (if s.mode = .service then (heard s).leaveService .hold else heard s).closingCheck :=
  congrArg Host.Outcome.next (s.receiveAction_taken .hold f bay _ taken)

theorem exec_maintainEnter_taken {f : RowFrame} {s : State} {bay : Option Bay} (taken : TakenAction .maintainEnter bay f s) :
    exec (.maintainEnter f) s = .next (heard s).maintainEnter.closingCheck :=
  congrArg Host.Outcome.next (s.receiveAction_taken .maintainEnter f bay _ taken)

theorem exec_unhush_taken {f : RowFrame} {s : State} {bay : Option Bay} (taken : TakenAction .unhush bay f s) :
    exec (.unhush f) s =
      .next (State.offerNotice { heard s with aq := { s.aq with hush := false } }).closingCheck :=
  congrArg Host.Outcome.next (s.receiveAction_taken .unhush f bay _ taken)

theorem actionMode {a : RowAction} {f : RowFrame} {s : State} {bay : Option Bay} (taken : TakenAction a bay f s) :
    s.mode.working = true := working_of taken.1.1.1 taken.1.2.1

/-- Settles O27: one reception each, answered as its action says. -/
theorem immediateActions : Obligations.ImmediateActions := by
  intro f s bay
  refine ⟨fun taken serves still => ?hold, fun taken serves => ?holds, fun taken holds => ?resume, fun taken holds => ?resumes,
    fun taken mode => ?enter, fun taken serves holds => ?enters, fun taken mode => ?exits, fun taken closing maintained => ?leaves,
    fun taken => ?hush, fun taken => ⟨fun empty => ?unhush, fun e rest queue notices none' room => ?offers⟩⟩
  case hold =>
    rw [exec_hold_taken taken, if_pos serves]
    have aborted : (heard s).leaveService .hold = (heard s).setMode .hold := State.abort_still (s := (heard s).setMode .hold) still
    rw [aborted]
    exact congrArg Host.Outcome.next (State.closingCheck_of_not_closing _ nofun)
  case holds => rw [exec_hold_taken taken, if_neg serves]
  case resume =>
    refine congrArg Host.Outcome.next ((s.receiveAction_taken .resume f bay _ taken).trans ?_)
    refine (congrArg State.closingCheck (if_pos (show (heard s).mode = .hold from holds))).trans ?_
    exact State.closingCheck_of_not_closing _ nofun
  case resumes =>
    refine congrArg Host.Outcome.next ((s.receiveAction_taken .resume f bay _ taken).trans ?_)
    exact congrArg State.closingCheck (if_neg (show (heard s).mode ≠ .hold from holds))
  case enter =>
    rw [exec_maintainEnter_taken taken]
    obtain ⟨serving, holding, _⟩ := (heard s).maintainEnter_cases
    have entered : (heard s).maintainEnter =
        (heard s).setMode (if (heard s).allBaysIdle = true then .maintenance else .closing) := by
      rcases mode with holds | ⟨serves, still⟩
      · exact holding holds
      · rw [serving serves]
        exact State.abort_still (s := (heard s).setMode _) still
    rw [entered, State.closingCheck_entered]
    rfl
  case enters =>
    obtain ⟨_, _, other⟩ := (heard s).maintainEnter_cases
    rw [exec_maintainEnter_taken taken, other serves holds]
  case exits =>
    refine congrArg Host.Outcome.next ((s.receiveAction_taken .maintainExit f bay _ taken).trans ?_)
    refine (congrArg State.closingCheck (if_pos (show (heard s).mode = .closing ∨ (heard s).mode = .maintenance from mode))).trans ?_
    exact State.closingCheck_of_not_closing _ nofun
  case leaves =>
    refine congrArg Host.Outcome.next ((s.receiveAction_taken .maintainExit f bay _ taken).trans ?_)
    refine (congrArg State.closingCheck (if_neg (show ¬((heard s).mode = .closing ∨ (heard s).mode = .maintenance) from
      fun h => h.elim closing maintained))).trans ?_
    exact State.closingCheck_of_not_closing _ closing
  case hush => exact congrArg Host.Outcome.next (s.receiveAction_taken .hush f bay _ taken)
  case unhush =>
    rw [exec_unhush_taken taken]
    refine congrArg (fun x => Host.Outcome.next (State.closingCheck x)) ?_
    unfold State.offerNotice
    rw [show ({ heard s with aq := { s.aq with hush := false } } : State).aq.queue = [] from empty]
  case offers =>
    rw [exec_unhush_taken taken, State.offerNotice_offers (s := { heard s with aq := { s.aq with hush := false } })
      queue (actionMode taken) notices rfl none' room]
    exact ⟨_, rfl, by rw [State.closingCheck_rlc]; rfl, by rw [State.closingCheck_aq]⟩

/-! ### Transactions aborted -/

/-- R169: HOLD, and MAINTAIN-ENTER with a transaction under way, take the post out of SERVICE. -/
theorem exec_leaves {f : RowFrame} {s : State} {bay : Option Bay} {c : Instr} {m : PostMode}
    (command : c = .hold f ∧ m = .hold ∧ TakenAction .hold bay f s ∨
      c = .maintainEnter f ∧ m = .closing ∧ TakenAction .maintainEnter bay f s)
    (serves : s.mode = .service) (busy : s.tap.phase ≠ .idle) :
    exec c s = .next (State.abort { heard s with mode := m }).closingCheck ∧ s.rlc.attempt = none := by
  rcases command with ⟨rfl, rfl, taken⟩ | ⟨rfl, rfl, taken⟩
  · refine ⟨?_, taken.1.1.2.1⟩
    rw [exec_hold_taken taken, if_pos serves]
    rfl
  · refine ⟨?_, taken.1.1.2.1⟩
    have idle : ¬(heard s).allBaysIdle = true := fun h => busy ((State.allBaysIdle_iff _).mp h).1
    rw [exec_maintainEnter_taken taken, (heard s).maintainEnter_cases.1 serves, if_neg idle]
    rfl

/-- Settles O28: the phases of `State.abort`, the claim's end being `claimOver_ends`. -/
theorem leavingServiceAbortsTheTransaction : Obligations.LeavingServiceAbortsTheTransaction := by
  intro f s bay c m tok b command serves
  refine ⟨fun phase => ?intake, fun phase => ?checking, fun phase token chosen => ?claiming⟩
  all_goals
    obtain ⟨e, idle⟩ := exec_leaves command serves (by rw [phase]; nofun)
    rw [e]
  case intake =>
    rw [State.abort_intake (s := { heard s with mode := m }) phase]
    refine congrArg Host.Outcome.next ((State.closingCheck_busy ?_).trans rfl)
    change s.tap.phase ≠ .idle
    rw [phase]
    nofun
  case checking =>
    rw [State.abort_checking (s := { heard s with mode := m }) phase, State.closingCheck_busy (by nofun)]
    exact ⟨_, rfl, rfl, rfl, rfl, State.endTransaction_told _ _, rfl, rfl, rfl⟩
  case claiming =>
    obtain ⟨q, aborted, without⟩ := State.abort_claiming (s := { heard s with mode := m }) phase token idle
    rw [aborted]
    have ends := claimOver_ends (y := { heard s with
      mode := m
      table := s.table.map (fun slot => slot.filter (fun e => !(e.token == tok.id && e.status == .ownPending)))
      rlc := { (heard s).rlc with protocol := q } }) .postClosed chosen
    refine ⟨_, rfl, ?_, without.of_eq (congrArg RowLine.protocol ends.rlc), ends.bay, ends.others, ends.tap, ends.told, ends.table⟩
    exact State.claimOver_mode _ _

/-! ### Actuating actions -/

/-- R168, R170: a row action's command is its reception, and an actuating one is delayed. -/
theorem exec_action (a : RowAction) (f : RowFrame) (s : State) :
    ∃ act, exec (actionCommand a f) s = .next (s.receiveAction a f act) ∧
      (a ∈ actuating → act = fun bay x => x.delayAction a bay) := by
  have other {x : RowAction} (h : x ∉ actuating) {P : Prop} : x ∈ actuating → P := fun k => absurd k h
  cases a with
  | hold | resume | maintainEnter | maintainExit | hush | unhush => exact ⟨_, rfl, other (by decide)⟩
  | faultClear | serviceOpen | serviceClose | relatchOpen | patrolNow | restart => exact ⟨_, rfl, fun _ => rfl⟩

theorem exec_actuating_taken {a : RowAction} {f : RowFrame} {s : State} {bay : Option Bay} (acts : a ∈ actuating)
    (taken : TakenAction a bay f s) :
    exec (actionCommand a f) s = .next ((heard s).delayAction a bay).closingCheck := by
  obtain ⟨act, e, delays⟩ := exec_action a f s
  rw [e, s.receiveAction_taken a f bay act taken, delays acts]

/-- R170: what becomes of an actuating action: it waits, it is dropped, or it is applied. -/
theorem State.delayAction_cases (s : State) (a : RowAction) (bay arg : Option Bay)
    (kept : arg = if a = .restart then none else bay) (others : List DelayRecord)
    (rest : others = s.delays.filter (fun r => !(r.action == a && r.bay == arg))) :
    (s.strap.toNat * s.cfg.actionStaggerMs ≠ 0 →
      (others.length < 4 → s.delayAction a bay =
        { s with delays := others ++ [⟨a, arg, s.strap.toNat * s.cfg.actionStaggerMs⟩] }) ∧
      (4 ≤ others.length → s.delayAction a bay = s.raise .post .actionDropped)) ∧
    (s.strap.toNat * s.cfg.actionStaggerMs = 0 → s.delayAction a bay = s.applyAction a arg) := by
  subst kept rest
  refine ⟨fun delayed => ⟨fun room => ?_, fun full => ?_⟩, fun none' => if_pos none'⟩
  · exact (if_neg delayed).trans (if_pos room)
  · exact (if_neg delayed).trans (if_neg (Nat.not_lt.mpr full))

/-- Settles O29: the cases of `State.delayAction_cases`. -/
theorem actuatingActionsWaitInTheDelayList : Obligations.ActuatingActionsWaitInTheDelayList := by
  intro a f s bay
  refine ⟨fun gateway read unmasked => ?unmasked, fun acts taken delayed arg others kept rest => ?delayed, fun acts taken none' => ?applied⟩
  case unmasked =>
    obtain ⟨act, e, _⟩ := exec_action a f s
    rw [e, s.receiveAction_unmasked a f bay act gateway read unmasked]
  case delayed =>
    obtain ⟨waits, _⟩ := State.delayAction_cases (heard s) a bay arg kept others rest
    rw [exec_actuating_taken acts taken]
    refine ⟨fun room => by rw [(waits delayed).1 room]; rfl, fun full => ?_⟩
    rw [(waits delayed).2 full]
    obtain ⟨aq, q, raised⟩ := (heard s).raise_sets .post .actionDropped
    refine ⟨_, rfl, ?_, ?_, fun unmasked => ?_⟩
    · rw [State.closingCheck_delays, raised]
      rfl
    · rw [State.closingCheck_bays, raised]
      rfl
    · rw [attentionPairs_of_aq (State.closingCheck_aq _)]
      exact (heard s).raise_records _ _ (actionMode taken) unmasked
  case applied =>
    obtain ⟨_, applies⟩ := State.delayAction_cases (heard s) a bay _ rfl _ rfl
    rw [exec_actuating_taken acts taken, applies none']
    rfl

end Sys2Proof.Safety
end

section
/-! SUPPORT. Restarts: RESTART at the expiry of its delay and at the end of an attempt, and the actions applied to a bay (R50, R119,
R122, R126, R130 to R132, R171, R179). -/

namespace Sys2Proof.Machine

open Sys2Proof.Safety

/-! ### What the end of an attempt leaves -/

/-- R179: what a RESTART keeps of the post, and that it is due, are as they were. -/
structure Standing (s u : State) : Prop where
  ssu : u.ssu = s.ssu
  image : u.image = s.image
  strap : u.strap = s.strap
  inputs : u.inputs = s.inputs
  restartDue : u.restartDue = s.restartDue
  clear : ∀ b, (u.bay b).clearPoint = (s.bay b).clearPoint

namespace Standing

theorem refl (s : State) : Standing s s := ⟨rfl, rfl, rfl, rfl, rfl, fun _ => rfl⟩

theorem trans {s t u : State} (h : Standing s t) (k : Standing t u) : Standing s u :=
  ⟨k.ssu.trans h.ssu, k.image.trans h.image, k.strap.trans h.strap, k.inputs.trans h.inputs,
    k.restartDue.trans h.restartDue, fun b => (k.clear b).trans (h.clear b)⟩

theorem of_bays {s u : State} (ssu : u.ssu = s.ssu) (image : u.image = s.image) (strap : u.strap = s.strap)
    (inputs : u.inputs = s.inputs) (restartDue : u.restartDue = s.restartDue) (bays : u.bays = s.bays) : Standing s u :=
  ⟨ssu, image, strap, inputs, restartDue, fun b => by rw [State.bay_of_bays bays]⟩

/-- A fold of bays each of which leaves the post standing. -/
theorem fold {f : State → Bay → State} (each : ∀ s b, Standing s (f s b)) (l : List Bay) :
    ∀ s : State, Standing s (l.foldl f s) := by
  induction l with
  | nil => exact refl
  | cons b l ih => exact fun s => (each s b).trans (ih _)

end Standing

variable (s : State)

theorem State.raise_standing (src : Source) (code : Code) : Standing s (s.raise src code) := by
  obtain ⟨_, _, e⟩ := s.raise_sets src code
  rw [e]
  exact .of_bays rfl rfl rfl rfl rfl rfl

theorem State.offerNotice_standing : Standing s s.offerNotice := by
  obtain ⟨_, _, e⟩ := s.offerNotice_sets
  rw [e]
  exact .of_bays rfl rfl rfl rfl rfl rfl

theorem State.queueProtocol_standing (f : Frame) : Standing s (s.queueProtocol f) := by
  obtain ⟨_, _, e⟩ := s.queueProtocol_sets f
  rw [e]
  exact .of_bays rfl rfl rfl rfl rfl rfl

theorem State.endDump_standing : Standing s s.endDump ∧ s.endDump.store = s.store := by
  unfold State.endDump
  split
  · unfold State.beginDump
    obtain ⟨_, _, e⟩ := State.queueProtocol_sets (s.setJu { s.ju with
      dump := .dumping, stagger := none, owed := false, cursor := .index 0, nextSeq := 0, framesSent := 0,
      entriesSent := 0 }) .dump
    rw [e]
    exact ⟨.of_bays rfl rfl rfl rfl rfl rfl, rfl⟩
  · exact ⟨.of_bays rfl rfl rfl rfl rfl rfl, rfl⟩

theorem State.giveBack_clear (b : Bay) : (s.giveBack.bay b).clearPoint = (s.bay b).clearPoint := by
  unfold State.giveBack
  split
  · split
    · rw [State.bay_updateBay]
      split
      · rename_i same
        rw [same]
      · rfl
    · rfl
  · rfl

theorem State.claimDropped_standing (t : TokenId) : Standing s (s.claimDropped t) ∧ (s.claimDropped t).store = s.store := by
  unfold State.claimDropped
  dsimp only
  split
  · obtain ⟨bs, e⟩ := State.giveBack_sets (s.updateEntry t fun e => if e.status = .ownPending then none else some e)
    have clear (b : Bay) := State.giveBack_clear (s.updateEntry t fun e => if e.status = .ownPending then none else some e) b
    rw [e] at clear
    unfold State.claimOver
    rw [e]
    exact ⟨⟨rfl, rfl, rfl, rfl, rfl, clear⟩, rfl⟩
  · exact ⟨.of_bays rfl rfl rfl rfl rfl rfl, rfl⟩

theorem State.tryDock_standing (b : Bay) : Standing s (s.tryDock b) := by
  obtain ⟨bs, d, r, e⟩ := s.tryDock_sets b
  refine ⟨by rw [e], by rw [e], by rw [e], by rw [e], by rw [e], fun c => ?_⟩
  unfold State.tryDock
  split
  · rw [State.requestRun_bay, State.bay_updateBay]
    split
    · rename_i same
      rw [same]
    · rfl
  · rfl

theorem State.clearSegment_standing (g : Nat) : Standing s (s.clearSegment g) := by
  unfold State.clearSegment
  dsimp only
  split
  · unfold State.drainAndTell
    refine Standing.trans ?_ (Standing.fold State.tryDock_standing _ _)
    obtain ⟨_, _, _, e⟩ := State.drain_sets _
    rw [e]
    exact .of_bays rfl rfl rfl rfl rfl rfl
  · exact .of_bays rfl rfl rfl rfl rfl rfl

theorem State.moveCursor_standing (g n : Nat) : Standing s (s.moveCursor g n) := by
  unfold State.moveCursor
  dsimp only
  have moved : Standing s (s.setStore { s.store with cursors := s.store.cursors.set g n }) := .of_bays rfl rfl rfl rfl rfl rfl
  split
  · exact moved.trans (State.clearSegment_standing _ g)
  · exact moved

theorem State.closingCheck_standing : Standing s s.closingCheck := by
  obtain ⟨_, e⟩ := s.closingCheck_sets
  rw [e]
  exact .of_bays rfl rfl rfl rfl rfl rfl

theorem State.dropAttempt_standing (a : Attempt) : Standing s (s.dropAttempt a) ∧ (s.dropAttempt a).store = s.store := by
  obtain ⟨_, _, e⟩ := s.dropAttempt_sets a
  rw [e]
  exact ⟨.of_bays rfl rfl rfl rfl rfl rfl, rfl⟩

/-! ### The effects of echoes and drops -/

variable (f : Frame) (x : Settled)

theorem claimEchoEffect_standing : Standing s (claimEchoEffect f x s) ∧ (claimEchoEffect f x s).store = s.store := by
  cases f with
  | claim t b e =>
    obtain ⟨_, _, e⟩ := s.claimEchoed_sets t
    change Standing s (s.claimEchoed t) ∧ (s.claimEchoed t).store = s.store
    rw [e]
    exact ⟨.of_bays rfl rfl rfl rfl rfl rfl, rfl⟩
  | _ => exact ⟨.refl s, rfl⟩

theorem objectEchoEffect_standing : Standing s (objectEchoEffect f x s) ∧ (objectEchoEffect f x s).store = s.store := by
  cases f with
  | object t c r => exact ⟨.of_bays rfl rfl rfl rfl rfl rfl, rfl⟩
  | _ => exact ⟨.refl s, rfl⟩

theorem joinEchoEffect_standing : Standing s (joinEchoEffect f x s) ∧ (joinEchoEffect f x s).store = s.store := by
  unfold joinEchoEffect
  split
  · exact ⟨.of_bays rfl rfl rfl rfl rfl rfl, rfl⟩
  · exact ⟨.refl s, rfl⟩

theorem dumpEchoEffect_standing : Standing s (dumpEchoEffect f x s) ∧ (dumpEchoEffect f x s).store = s.store := by
  cases x with
  | dump seq entries next =>
    obtain ⟨_, _, e⟩ := State.queueProtocol_sets (s.setJu { s.ju with
      framesSent := s.ju.framesSent + 1, entriesSent := s.ju.entriesSent + entries.length, cursor := next,
      nextSeq := s.ju.nextSeq + 1 }) (if next = .atEnd then .dumpEnd else .dump)
    change Standing s (State.queueProtocol _ _) ∧ (State.queueProtocol _ _).store = s.store
    rw [e]
    exact ⟨.of_bays rfl rfl rfl rfl rfl rfl, rfl⟩
  | _ => exact ⟨.refl s, rfl⟩

theorem logReadyEchoEffect_standing : Standing s (logReadyEchoEffect f x s) ∧ (logReadyEchoEffect f x s).store = s.store :=
  ⟨s.offerNotice_standing, s.offerNotice_store⟩

theorem logDataEchoEffect_standing : Standing s (logDataEchoEffect f x s) := by
  cases f with
  | logData q g start records endOf refusal advancing =>
    unfold logDataEchoEffect
    dsimp only
    split
    · exact (State.moveCursor_standing s _ _).trans (State.offerNotice_standing _)
    · exact s.offerNotice_standing
  | _ => exact .refl s

theorem statusReplyEchoEffect_standing :
    Standing s (statusReplyEchoEffect f x s) ∧ (statusReplyEchoEffect f x s).store = s.store := by
  cases f with
  | statusReply q take =>
    unfold statusReplyEchoEffect
    dsimp only
    split
    · obtain ⟨_, _, e⟩ := s.takeOldest_sets
      rw [e]
      exact ⟨.of_bays rfl rfl rfl rfl rfl rfl, rfl⟩
    · exact ⟨s.offerNotice_standing, s.offerNotice_store⟩
  | _ => exact ⟨.refl s, rfl⟩

theorem noticeEchoEffect_standing : Standing s (noticeEchoEffect f x s) ∧ (noticeEchoEffect f x s).store = s.store := by
  obtain ⟨_, _, e⟩ := s.noticeSent_sets
  change Standing s s.noticeSent ∧ s.noticeSent.store = s.store
  rw [e]
  exact ⟨.of_bays rfl rfl rfl rfl rfl rfl, rfl⟩

theorem State.producerDropped_standing : Standing s (s.producerDropped f) ∧ (s.producerDropped f).store = s.store := by
  unfold State.producerDropped
  cases f with
  | claim t b e => exact s.claimDropped_standing t
  | object t c r => exact ⟨.of_bays rfl rfl rfl rfl rfl rfl, rfl⟩
  | join =>
    change Standing s s.joinDropped ∧ s.joinDropped.store = s.store
    unfold State.joinDropped
    split
    · obtain ⟨_, _, e⟩ := s.queueProtocol_sets .join
      rw [e]
      exact ⟨.of_bays rfl rfl rfl rfl rfl rfl, rfl⟩
    · exact ⟨.refl s, rfl⟩
  | dump | dumpEnd => exact s.endDump_standing
  | lapse t r => exact ⟨.refl s, rfl⟩
  | logReady | logData | statusReply | notice => exact ⟨s.offerNotice_standing, s.offerNotice_store⟩

/-- R39, R44: a veto leaves the post standing, whatever becomes of the frame. -/
theorem State.vetoAttempt_standing (a : Attempt) (q : Queued) :
    Standing s (s.vetoAttempt a q) ∧ (s.vetoAttempt a q).store = s.store := by
  unfold State.vetoAttempt
  split
  · exact s.dropAttempt_standing a
  · split
    · obtain ⟨_, _, e⟩ := s.countVeto_sets a
      rw [e]
      exact ⟨.of_bays rfl rfl rfl rfl rfl rfl, rfl⟩
    · unfold State.dropFrame
      have dropped : Standing s (((s.dropAttempt a).noticeUnmarked q.frame).raise .line q.frame.dropCode) ∧
          (((s.dropAttempt a).noticeUnmarked q.frame).raise .line q.frame.dropCode).store = s.store := by
        obtain ⟨standing, store⟩ := s.dropAttempt_standing a
        obtain ⟨_, _, e⟩ := State.raise_sets ((s.dropAttempt a).noticeUnmarked q.frame) .line q.frame.dropCode
        have unmarked : Standing (s.dropAttempt a) ((s.dropAttempt a).noticeUnmarked q.frame) ∧
            ((s.dropAttempt a).noticeUnmarked q.frame).store = (s.dropAttempt a).store := by
          unfold State.noticeUnmarked
          split
          · exact ⟨.of_bays rfl rfl rfl rfl rfl rfl, rfl⟩
          · exact ⟨.refl _, rfl⟩
        exact ⟨(standing.trans unmarked.1).trans (State.raise_standing _ _ _),
          (congrArg State.store e :).trans (unmarked.2.trans store)⟩
      obtain ⟨standing, store⟩ := State.producerDropped_standing
        (((s.dropAttempt a).noticeUnmarked q.frame).raise .line q.frame.dropCode) q.frame
      exact ⟨(dropped.1.trans standing).trans (State.closingCheck_standing _),
        (State.closingCheck_store _).trans (store.trans dropped.2)⟩

/-! ### RESTART carried out -/

variable {s} {u : State}

/-- R179: the restart of a post that stands as `s` does. -/
theorem carryOutRestart_restarted (h : Standing s u) : Restarted s u.carryOutRestart := by
  obtain ⟨bs, lk, cleared⟩ := u.clearForRestart_sets
  obtain ⟨st, aq, q, handed⟩ := (u.clearForRestart.setRestartDue false).handOver_sets false .resetMark
  obtain ⟨bs', d, r, aq', q', entered⟩ := ((u.clearForRestart.setRestartDue false).handOver false .resetMark).enterJoining_sets
  have bay (b : Bay) : ((u.clearForRestart.setRestartDue false).handOver false .resetMark).bay b = (u.bay b).restarted := by
    rw [handed]
    exact u.clearForRestart_bay b
  have fitted : ((u.clearForRestart.setRestartDue false).handOver false .resetMark).cfg = s.cfg := by
    unfold State.cfg
    rw [handed]
    change (u.clearForRestart.image).getD _ = _
    rw [cleared, ← h.image]
  have base : u.carryOutRestart = ((u.clearForRestart.setRestartDue false).handOver false .resetMark).enterJoining := rfl
  refine ⟨?_, ?_, ?_, ?_, ?_, ?_, ?_, ?_, ?_, ?_, ?_, ?_, ?_, ?_, fun b inside => ⟨?_, ?_, ?_, ?_, ?_⟩⟩
  case refine_2 | refine_3 | refine_4 | refine_5 | refine_6 | refine_7 | refine_8 | refine_9 | refine_10 =>
    rw [base, entered, handed, cleared]
    rfl
  case refine_11 => rw [base, entered, handed, cleared]; exact h.ssu
  case refine_12 => rw [base, entered, handed, cleared]; exact h.image
  case refine_13 => rw [base, entered, handed, cleared]; exact h.strap
  case refine_14 => rw [base, entered, handed, cleared]; exact h.inputs
  case refine_15 =>
    rw [base, State.enterJoining_bay]
    refine calibrateAll_state _ _ b (.inl ?_)
    unfold State.fittedBays State.fitted
    rw [fitted]
    exact List.mem_filter.mpr ⟨mem_allBays b, by simpa using inside⟩
  case refine_16 =>
    rw [base, State.enterJoining_bay]
    refine calibrateAll_keeps _ (·.bikeId = none) (fun _ _ => ⟨rfl, rfl⟩) _ (fun c => ?_) b
    exact (congrArg BayRecord.bikeId (bay c) :)
  case refine_17 =>
    rw [base, State.enterJoining_bay]
    refine calibrateAll_keeps _ (·.claim = none) (fun _ _ => ⟨rfl, rfl⟩) _ (fun c => ?_) b
    exact (congrArg BayRecord.claim (bay c) :)
  case refine_18 =>
    rw [base, State.enterJoining_bay]
    refine calibrateAll_keeps _ (·.fault = none) (fun _ none' => ⟨none', none'⟩) _ (fun c => ?_) b
    exact (congrArg BayRecord.fault (bay c) :)
  case refine_19 =>
    rw [base, State.enterJoining_bay, calibrateAll_clearPoint, ← h.clear b]
    exact (congrArg BayRecord.clearPoint (bay b) :)
  case refine_1 => rw [base, entered]

/-- R152, R179: a RESET-MARK is handed to the store. -/
theorem carryOutRestart_recorded (h : Standing s u) (store : u.store = s.store) :
    Recorded .resetMark s u.carryOutRestart.store := by
  obtain ⟨_, _, _, _, _, entered⟩ := ((u.clearForRestart.setRestartDue false).handOver false .resetMark).enterJoining_sets
  obtain ⟨_, _, cleared⟩ := u.clearForRestart_sets
  have base : u.carryOutRestart = ((u.clearForRestart.setRestartDue false).handOver false .resetMark).enterJoining := rfl
  rw [base, entered]
  refine State.handOver_recorded (x := u.clearForRestart.setRestartDue false) .resetMark ?_ ?_ ?_
  · change u.clearForRestart.store = _
    rw [cleared]
    exact store
  · change u.clearForRestart.image = _
    rw [cleared]
    exact h.image
  · change u.clearForRestart.ssu = _
    rw [cleared]
    exact h.ssu

theorem State.afterAttempt_due (due : u.restartDue = true) : u.afterAttempt = u.carryOutRestart := if_pos due

end Sys2Proof.Machine

namespace Sys2Proof.Safety

open Sys2Proof.Machine

/-! ### The end of an attempt with a restart due -/

theorem echo_effect {s : State} {a : Attempt} {f : Frame} {v : Nat} (h : Sending f v a s) {k : FrameKind} (kind : f.kind = k)
    (effect : Frame → Settled → State → State) : s.echo k effect = (effect f a.settled (sent a s)).afterAttempt := by
  obtain ⟨attempt, phase, frame⟩ := h
  unfold State.echo
  rw [attempt]
  dsimp only
  have found : s.attemptFrame a = some ⟨f, v⟩ := frame
  rw [phase, found]
  exact (if_pos kind).trans (by rw [State.dropAttempt_sent])

/-- R42: every echo ends its attempt and leaves the post standing. -/
theorem exec_echo {s : State} {a : Attempt} {f : Frame} {v : Nat} {c : Instr} (h : Sending f v a s) (echo : echoOf f.kind = some c) :
    ∃ u, exec c s = .next u.afterAttempt ∧ Standing s u ∧ (c ≠ .logDataEcho → u.store = s.store) := by
  have left : Standing s (sent a s) := .of_bays rfl rfl rfl rfl rfl rfl
  have ended {effect : Frame → Settled → State → State} (k : FrameKind) (kind : f.kind = k)
      (e : exec c s = .next (s.echo k effect)) (standing : ∀ x u, Standing u (effect f x u) ∧ (effect f x u).store = u.store) :
      ∃ u, exec c s = .next u.afterAttempt ∧ Standing s u ∧ (c ≠ .logDataEcho → u.store = s.store) :=
    ⟨_, e.trans (congrArg Host.Outcome.next (echo_effect h kind effect)), left.trans (standing _ _).1, fun _ => (standing _ _).2⟩
  cases f with
  | object t d r => cases echo; exact ended .object rfl rfl fun x u => objectEchoEffect_standing u _ x
  | claim t b e => cases echo; exact ended .claim rfl rfl fun x u => claimEchoEffect_standing u _ x
  | lapse t r => cases echo; exact ended .lapse rfl rfl fun x u => ⟨.refl u, rfl⟩
  | join => cases echo; exact ended .join rfl rfl fun x u => joinEchoEffect_standing u _ x
  | dump => cases echo; exact ended .dump rfl rfl fun x u => dumpEchoEffect_standing u _ x
  | dumpEnd => cases echo; exact ended .dumpEnd rfl rfl fun x u => u.endDump_standing
  | logReady g n => cases echo; exact ended .logReady rfl rfl fun x u => logReadyEchoEffect_standing u _ x
  | logData q g start records endOf refusal advancing =>
    cases echo
    refine ⟨_, congrArg Host.Outcome.next (echo_effect h rfl _), ?_, fun other => absurd rfl other⟩
    exact (left.trans (logDataEchoEffect_standing _ _ _)).trans (State.closingCheck_standing _)
  | statusReply q take => cases echo; exact ended .statusReply rfl rfl fun x u => statusReplyEchoEffect_standing u _ x
  | notice n => cases echo; exact ended .notice rfl rfl fun x u => noticeEchoEffect_standing u _ x

/-- R38, R44: an attempt lost or vetoed leaves the post standing, and so does its echo. -/
theorem exec_endsAttempt {s : State} {c : Instr} (ends : EndsAttempt c s) :
    ∃ u, exec c s = .next u.afterAttempt ∧ Standing s u ∧ (c ≠ .logDataEcho → u.store = s.store) := by
  rcases ends with ⟨rfl, a, attempt, arbitrating⟩ | ⟨f, v, a, sending, ⟨readback, rfl⟩ | echo⟩
  · have e : exec .arbitrationLost s = .next (s.loseAttempt a).afterAttempt := by
      change Host.Outcome.next _ = _
      rw [attempt]
      exact congrArg Host.Outcome.next (if_pos arbitrating)
    refine ⟨_, e, ?_⟩
    unfold State.loseAttempt
    split
    · exact ⟨(s.dropAttempt_standing a).1, fun _ => (s.dropAttempt_standing a).2⟩
    · exact ⟨.of_bays rfl rfl rfl rfl rfl rfl, fun _ => rfl⟩
  · obtain ⟨aq, l, seen⟩ := s.slotEnded_sets readback
    obtain ⟨standing, store⟩ := (s.slotEnded readback).vetoAttempt_standing a ⟨f, v⟩
    refine ⟨_, exec_ownVetoed sending readback, Standing.trans ?_ standing, fun _ => store.trans ?_⟩
    · rw [seen]
      exact .of_bays rfl rfl rfl rfl rfl rfl
    · rw [seen]
  · exact exec_echo sending echo

/-! ### Expired delays -/

theorem exec_actionDelayExpiry {s : State} {r : DelayRecord} {rest : List DelayRecord} (first : s.delays = r :: rest) :
    exec .actionDelayExpiry s = .next ((s.setDelays rest).applyAction r.action r.bay).closingCheck := by
  change Host.Outcome.next _ = _
  rw [first]

/-- R171: the mode condition of an action is not met. -/
theorem applyAction_refused {s : State} {a : RowAction} (bay : Option Bay) (refused : a.admitted s.mode = false) :
    s.applyAction a bay = s := if_neg (by rw [refused]; nofun)

/-- Settles O30: `carryOutRestart_restarted`, at the expiry and at each end of an attempt (`exec_endsAttempt`). -/
theorem delayExpiryAndRestart : Obligations.DelayExpiryAndRestart := by
  refine ⟨fun s r rest first => ⟨fun action outside => ?refused, fun action mode => ⟨fun flying => ?due, fun idle => ?now⟩⟩,
    fun s c due ends => ?ended⟩
  case refused =>
    rw [exec_actionDelayExpiry first, applyAction_refused]
    · rfl
    · have unmet : ((s.setDelays rest).mode == PostMode.maintenance) = false := beq_eq_false_iff_ne.mpr outside
      rcases action with h | h | h | h <;> (rw [h]; exact unmet)
  case due =>
    have applied : (s.setDelays rest).applyAction r.action r.bay = { s with delays := rest, restartDue := true } := by
      rw [action]
      refine (if_pos (beq_iff_eq.mpr mode)).trans ?_
      exact if_pos (Option.isSome_iff_ne_none.mpr flying)
    rw [exec_actionDelayExpiry first, applied]
    exact congrArg Host.Outcome.next (State.closingCheck_of_not_closing _ (by rw [mode]; nofun))
  case now =>
    have applied : (s.setDelays rest).applyAction r.action r.bay = (s.setDelays rest).carryOutRestart := by
      rw [action]
      refine (if_pos (beq_iff_eq.mpr mode)).trans ?_
      exact if_neg (by change ¬s.rlc.attempt.isSome = true; rw [idle]; nofun)
    have standing : Standing s (s.setDelays rest) := .of_bays rfl rfl rfl rfl rfl rfl
    have restarted := carryOutRestart_restarted standing
    rw [exec_actionDelayExpiry first, applied, State.closingCheck_of_not_closing _ (by rw [restarted.1]; nofun)]
    exact ⟨_, rfl, restarted, carryOutRestart_recorded standing rfl⟩
  case ended =>
    obtain ⟨u, e, standing, store⟩ := exec_endsAttempt ends
    rw [e, State.afterAttempt_due (standing.restartDue.trans due)]
    exact ⟨_, rfl, carryOutRestart_restarted standing, fun other => carryOutRestart_recorded standing (store other)⟩

end Sys2Proof.Safety
end

section
/-! SUPPORT. BayActions: the actuating actions applied to one bay, its take timer and the patrol timer (R119, R122, R126, R130 to
R132, R171). -/

namespace Sys2Proof.Machine

open Sys2Proof.Safety

/-! ### Requests and checks at the end of an event -/

theorem Asks.closingCheck {s : State} {b : Bay} {run : RunFor} (h : Asks b run s) : Asks b run s.closingCheck :=
  Asks.of h (congrArg DriveArbiter.waiting s.closingCheck_drive) s.closingCheck_run

theorem Told.closingCheck {s : State} {m : TapMessage} (h : Told m s) : Told m s.closingCheck :=
  Told.of_link h s.closingCheck_link

theorem State.withdraw_run (s : State) (b : Bay) : (s.withdraw b).run = s.run := rfl

/-- R145: a bay that has withdrawn its request and runs no run wants the drive no more. -/
theorem State.withdraw_wants {s : State} {b : Bay} (still : s.runsAt b = false) : (s.withdraw b).wantsDrive b = false := by
  rw [State.wantsDrive_false_iff]
  refine ⟨?_, still⟩
  rw [requestWaits_eq_false_iff]
  rintro mem
  obtain ⟨r, kept, same⟩ := List.mem_map.mp mem
  have apart := (List.mem_filter.mp kept).2
  rw [same] at apart
  simp at apart

variable {s : State} {b : Bay}

/-- R116: a bay without a run of its own begins calibration. -/
theorem State.calibrate_asks (free : s.wantsDrive b = false) :
    (s.calibrate b).bay b = calibratingFrom (s.bay b) ∧ Asks b (.role .home) (s.calibrate b) ∧ (s.calibrate b).link = s.link ∧
      (s.calibrate b).store = s.store := by
  have still := ((s.wantsDrive_false_iff b).mp free).2
  have begun : s.calibrate b = (s.updateBay b BayRecord.calibrating).requestRun b (.role .home) :=
    if_neg (by rw [still]; nofun)
  obtain ⟨_, _, e⟩ := (s.updateBay b BayRecord.calibrating).requestRun_sets b (.role .home)
  rw [begun]
  refine ⟨by rw [State.requestRun_bay, State.bay_updateBay, if_pos rfl]; rfl, State.requestRun_asks _ b _ free, ?_, ?_⟩
  · rw [e]
    rfl
  · rw [e]
    rfl

/-- R126: an OPEN bay begins to relatch. -/
theorem State.beginRelatch_asks (cause : RelatchCause) (free : s.wantsDrive b = false) :
    (s.beginRelatch b cause).bay b = { s.bay b with state := .relatching, cause := some cause, take := none } ∧
      Asks b (.role .relatch) (s.beginRelatch b cause) ∧ Told (.bayLight b .shut) (s.beginRelatch b cause) ∧
      (s.beginRelatch b cause).table = s.table ∧ (s.beginRelatch b cause).store = s.store ∧
      (s.beginRelatch b cause).rlc = s.rlc := by
  obtain ⟨_, _, _, e⟩ := s.beginRelatch_sets b cause
  obtain ⟨lk, lit⟩ := State.placeLight_sets
    ((s.updateBay b (fun r => { r with state := .relatching, cause := some cause, take := none })).requestRun b (.role .relatch)) b .shut
  have asks := State.requestRun_asks
    (s.updateBay b (fun r => { r with state := .relatching, cause := some cause, take := none })) b (.role .relatch) free
  refine ⟨?_, Asks.of asks (congrArg (fun x => x.drive.waiting) lit :) (congrArg State.run lit :),
    State.placeLight_told _ _ _, by rw [e], by rw [e], by rw [e]⟩
  rw [State.beginRelatch, State.placeLight_bay, State.requestRun_bay, State.bay_updateBay, if_pos rfl]

/-! ### The bay an action names -/

/-- R168, R171: an admitted action is applied to the fitted bay it names. -/
theorem applyAction_named (fitted : b.val < s.cfg.baysFitted) :
    (s.mode = .maintenance → s.applyAction .faultClear (some b) = s.clearFault b ∧
      s.applyAction .serviceOpen (some b) = s.openService b ∧ s.applyAction .serviceClose (some b) = s.closeService b) ∧
    (s.mode.working = true → s.applyAction .relatchOpen (some b) = s.relatchOpen b ∧
      s.applyAction .patrolNow (some b) = s.patrolBay b) := by
  have named : s.baysNamed (some b) = [b] := if_pos (decide_eq_true fitted)
  have folded (f : State → Bay → State) : (s.baysNamed (some b)).foldl f s = f s b := by rw [named]; rfl
  refine ⟨fun mode => ⟨?_, ?_, ?_⟩, fun working => ⟨?_, ?_⟩⟩
  · exact (if_pos (beq_iff_eq.mpr mode)).trans (folded _)
  · exact (if_pos (beq_iff_eq.mpr mode)).trans (folded _)
  · exact (if_pos (beq_iff_eq.mpr mode)).trans (folded _)
  · exact (if_pos working).trans (folded _)
  · exact (if_pos working).trans (folded _)

theorem State.patrols_iff : s.patrols b = true ↔ (s.bay b).state = .docked ∧ s.pendingOf b = [] ∧ s.wantsDrive b = false := by
  unfold State.patrols State.pendingCount
  simp [and_assoc]

end Sys2Proof.Machine

namespace Sys2Proof.Safety

open Sys2Proof.Machine

/-! ### FAULT-CLEAR, SERVICE-OPEN and SERVICE-CLOSE -/

variable {s : State} {b : Bay}

theorem clearFault_clears (faulted : (s.bay b).state = .faulted) (free : s.wantsDrive b = false) :
    (s.clearFault b).bay b = { calibratingFrom (s.bay b) with fault := none } ∧ Asks b (.role .home) (s.clearFault b) ∧
      Told (.bayLight b .shut) (s.clearFault b) ∧ (s.clearFault b).store = s.store := by
  have cleared : s.clearFault b = ((s.updateBay b (fun r => { r with fault := none })).placeLight b .shut).calibrate b :=
    if_pos ⟨faulted, free⟩
  obtain ⟨lk, lit⟩ := (s.updateBay b (fun r => { r with fault := none })).placeLight_sets b .shut
  have lighted := (s.updateBay b (fun r => { r with fault := none })).placeLight_told b .shut
  obtain ⟨bay, asks, link, store⟩ := State.calibrate_asks
    (s := (s.updateBay b (fun r => { r with fault := none })).placeLight b .shut) (b := b) (by rw [lit]; exact free)
  rw [cleared]
  refine ⟨?_, asks, Told.of_link lighted link, store.trans ?_⟩
  · rw [bay, State.placeLight_bay, State.bay_updateBay, if_pos rfl]
    rfl
  · rw [lit]
    rfl

theorem openService_opens (state : (s.bay b).state = .docked ∨ (s.bay b).state = .empty) (free : s.wantsDrive b = false) :
    (s.openService b).bay b = { s.bay b with state := .serviceOpen } ∧ Asks b (.role .serviceOpen) (s.openService b) ∧
      (s.openService b).store = s.store := by
  have still := ((s.wantsDrive_false_iff b).mp free).2
  have opened : s.openService b =
      ((s.withdraw b).updateBay b (fun r => { r with state := .serviceOpen })).requestRun b (.role .serviceOpen) :=
    if_pos ⟨state, still⟩
  obtain ⟨_, _, e⟩ := ((s.withdraw b).updateBay b (fun r => { r with state := .serviceOpen })).requestRun_sets b (.role .serviceOpen)
  rw [opened]
  refine ⟨?_, State.requestRun_asks _ b _ (State.withdraw_wants still), ?_⟩
  · rw [State.requestRun_bay, State.bay_updateBay, if_pos rfl]
    rfl
  · rw [e]
    rfl

/-- R131: SERVICE-CLOSE with a bicycle present asks for its run; without one the bay is EMPTY, and may begin docking. -/
theorem closeService_closes (state : (s.bay b).state = .serviceOpen) (free : s.wantsDrive b = false) :
    ((s.input b).presence = true → s.closeService b = s.requestRun b (.role .serviceClose)) ∧
    ((s.input b).presence = false → s.closeService b =
      (s.updateBay b (fun _ => { s.bay b with state := .empty, bikeId := none, bikeClass := none })).tryDock b) := by
  have closes : s.closeService b = if (s.input b).presence then s.requestRun b (.role .serviceClose)
      else (s.updateBay b BayRecord.noBike).enterEmpty b := if_pos ⟨state, free⟩
  refine ⟨fun present => closes.trans (if_pos present), fun gone => (closes.trans (if_neg (by rw [gone]; nofun))).trans ?_⟩
  refine congrArg (fun x : State => x.tryDock b) ?_
  rw [State.updateBay_eq, State.bay_updateBay, if_pos rfl, State.updateBay_eq, State.updateBay_eq]
  dsimp only
  rw [PerBay.set_set]
  rfl

theorem emptied_docks {y : State} (record : BayRecord) (is : y = s.updateBay b (fun _ => record)) (empty : record.state = .empty)
    (free : s.wantsDrive b = false) :
    ((s.input b).seat = false ∨ 2 ≤ (s.pendingOf b).length → y.tryDock b = y) ∧
    ((s.input b).seat = true → (s.pendingOf b).length < 2 → (y.tryDock b).bay b = { record with state := .docking } ∧
      Asks b (.role .relatch) (y.tryDock b) ∧ (y.tryDock b).store = s.store) := by
  have bay : y.bay b = record := by rw [is, State.bay_updateBay, if_pos rfl]
  obtain ⟨stays, docks⟩ := State.tryDock_spec (y := y) (b := b) (by rw [bay]; exact empty) (by rw [is]; exact free)
  obtain ⟨_, _, _, e⟩ := y.tryDock_sets b
  refine ⟨fun h => stays (by rw [is]; exact h), fun seat room => ?_⟩
  obtain ⟨docking, _, asks⟩ := docks (by rw [is]; exact seat) (by rw [is]; exact room)
  refine ⟨by rw [docking, bay], asks, ?_⟩
  rw [e, is]
  rfl

/-- Settles O31: the named bay is the only one the action visits (`applyAction_named`). -/
theorem actionsAppliedToABay : Obligations.ActionsAppliedToABay := by
  intro s a b n rest first fitted free
  have applied : exec .actionDelayExpiry s = .next ((s.setDelays rest).applyAction a (some b)).closingCheck :=
    exec_actionDelayExpiry first
  obtain ⟨maintained, worked⟩ := applyAction_named (s := s.setDelays rest) fitted
  rw [applied]
  refine ⟨fun action mode state => ?clears, fun action mode state => ?opens, fun action mode state => ?closes,
    fun action working state => ?relatches, fun action working state none' => ?patrols⟩
  case clears =>
    obtain ⟨bay, asks, told, store⟩ := clearFault_clears (s := s.setDelays rest) state free
    rw [action, (maintained mode).1]
    exact ⟨_, rfl, (State.closingCheck_bay _ b).trans bay, Asks.closingCheck asks, Told.closingCheck told,
      (State.closingCheck_store _).trans store⟩
  case opens =>
    obtain ⟨bay, asks, store⟩ := openService_opens (s := s.setDelays rest) state free
    rw [action, (maintained mode).2.1]
    exact ⟨_, rfl, (State.closingCheck_bay _ b).trans bay, Asks.closingCheck asks, (State.closingCheck_store _).trans store⟩
  case closes =>
    obtain ⟨runs, empties⟩ := closeService_closes (s := s.setDelays rest) state free
    obtain ⟨stays, docks⟩ := emptied_docks (s := s.setDelays rest) (b := b)
      { (s.setDelays rest).bay b with state := .empty, bikeId := none, bikeClass := none } rfl rfl free
    rw [action, (maintained mode).2.2]
    refine ⟨fun present => ?_, fun gone seat => ?_, fun gone seat room => ?_⟩
    · obtain ⟨_, _, e⟩ := (s.setDelays rest).requestRun_sets b (.role .serviceClose)
      rw [runs present]
      refine ⟨_, rfl, ?_, Asks.closingCheck (State.requestRun_asks _ b _ free)⟩
      rw [State.closingCheck_bays, e]
      rfl
    · rw [empties gone]
      have same := stays seat
      refine ⟨_, rfl, ?_, ?_, ?_⟩
      · rw [State.closingCheck_bay]
        exact (congrArg (State.bay · b) same).trans (by rw [State.bay_updateBay, if_pos rfl]; rfl)
      · rw [State.closingCheck_drive]
        exact (congrArg State.drive same :)
      · rw [State.closingCheck_store]
        exact (congrArg State.store same :)
    · rw [empties gone]
      obtain ⟨bay, asks, store⟩ := docks seat room
      exact ⟨_, rfl, (State.closingCheck_bay _ b).trans bay, Asks.closingCheck asks, (State.closingCheck_store _).trans store⟩
  case relatches =>
    obtain ⟨bay, asks, told, table, store, _⟩ := State.beginRelatch_asks (s := s.setDelays rest) .relatchAction free
    have relatched : (s.setDelays rest).relatchOpen b = (s.setDelays rest).beginRelatch b .relatchAction := if_pos state
    rw [action, (worked working).1, relatched]
    exact ⟨_, rfl, (State.closingCheck_bay _ b).trans bay, Asks.closingCheck asks, Told.closingCheck told,
      (State.closingCheck_table _).trans table, (State.closingCheck_store _).trans store⟩
  case patrols =>
    obtain ⟨_, _, e⟩ := (s.setDelays rest).requestRun_sets b (.role .patrol)
    have patrolled : (s.setDelays rest).patrolBay b = (s.setDelays rest).requestRun b (.role .patrol) :=
      if_pos (State.patrols_iff.mpr ⟨state, none', free⟩)
    rw [action, (worked working).2, patrolled]
    refine ⟨_, rfl, ?_, ?_, Asks.closingCheck (State.requestRun_asks _ b _ free)⟩
    · rw [State.closingCheck_bays, e]
      rfl
    · rw [State.closingCheck_patrol, e]
      rfl


/-! ### The take timer and the patrol timer -/

/-- R146: a grant takes the head of the list, or nothing is granted. -/
theorem grant_cases (s : State) :
    (∃ r rest, s.drive.holder = none ∧ s.drive.waiting = r :: rest ∧
      s.grant = { s with drive := ⟨rest, some r.bay⟩, run := some (s.startedRun r) }) ∨ s.grant = s := by
  unfold State.grant
  split
  · rename_i r rest free queue
    exact .inl ⟨r, rest, free, queue, rfl⟩
  · exact .inr rfl

/-- The requests of a bay that wait. -/
def requestsOf (s : State) (b : Bay) : List Request := s.drive.waiting.filter (fun r => r.bay == b)

theorem wantsDrive_false_iff_requestsOf (s : State) (b : Bay) :
    s.wantsDrive b = false ↔ requestsOf s b = [] ∧ s.runsAt b = false := by
  rw [State.wantsDrive_false_iff]
  unfold State.requestWaits requestsOf
  simp

/-- The bay has this request alone: it waits, or it is granted and holds the drive. -/
def Alone (b : Bay) (run : RunFor) (s : State) : Prop :=
  requestsOf s b = [⟨b, run⟩] ∨
    requestsOf s b = [] ∧ s.drive.holder.isSome = true ∧ s.run.map (fun r => (r.bay, r.run)) = some (b, run)

theorem requestsOf_requestRun {c : Bay} (run : RunFor) (free : s.wantsDrive c = false) :
    ∃ x : State, s.requestRun c run = x.grant ∧ requestsOf x b = requestsOf s b ++ (if c = b then [⟨c, run⟩] else []) ∧
      x.drive.holder = s.drive.holder ∧ x.run = s.run := by
  refine ⟨_, requestRun_of_none run free, ?_, rfl, rfl⟩
  unfold requestsOf
  rw [List.filter_append]
  refine congrArg (List.filter (fun r => r.bay == b) s.drive.waiting ++ ·) ?_
  rw [List.filter_cons, List.filter_nil]
  exact ite_congr (propext beq_iff_eq) (fun _ => rfl) fun _ => rfl

/-- What a grant does to the requests of a bay. -/
theorem grant_requestsOf (s : State) (b : Bay) :
    s.grant = s ∨ ∃ r, s.drive.holder = none ∧ s.grant.drive.holder = some r.bay ∧
      s.grant.run.map (fun x => (x.bay, x.run)) = some (r.bay, r.run) ∧
      requestsOf s b = (if r.bay = b then [r] else []) ++ requestsOf s.grant b := by
  rcases grant_cases s with ⟨r, rest, free, queue, e⟩ | e
  · refine .inr ⟨r, free, by rw [e], by rw [e]; rfl, ?_⟩
    unfold requestsOf
    rw [e, queue, List.filter_cons]
    by_cases same : r.bay = b
    · rw [if_pos (beq_iff_eq.mpr same), if_pos same]
      rfl
    · rw [if_neg (by simpa using same), if_neg same]
      rfl
  · exact .inl e

/-- R145: a request is made only for the bay named, and a grant makes none. -/
theorem requestRun_unwanted {c : Bay} (run : RunFor) (apart : c ≠ b) (free : s.wantsDrive b = false) :
    (s.requestRun c run).wantsDrive b = false := by
  by_cases wants : s.wantsDrive c = true
  · rw [requestRun_of_wants run wants]
    exact free
  · obtain ⟨x, e, requests, holder, same⟩ := requestsOf_requestRun (b := b) run (s := s) (c := c) (by simpa using wants)
    rw [wantsDrive_false_iff_requestsOf] at free ⊢
    rw [free.1, if_neg apart] at requests
    rw [e]
    rcases grant_requestsOf x b with still | ⟨r, _, _, granted, was⟩
    · rw [still]
      exact ⟨requests, by unfold State.runsAt; rw [same]; exact free.2⟩
    · rw [requests] at was
      obtain ⟨other, none'⟩ := List.append_eq_nil_iff.mp was.symm
      refine ⟨none', ?_⟩
      rw [← Bool.not_eq_true, runsAt_iff]
      intro runs
      obtain ⟨y, at', eq⟩ := Option.map_eq_some_iff.mp granted
      rw [at'] at runs
      have bay : r.bay = b := (congrArg Prod.fst eq).symm.trans (Option.some.inj runs)
      rw [if_pos bay] at other
      cases other

namespace Alone

variable {run : RunFor}

theorem grant (h : Alone b run s) : Alone b run s.grant := by
  rcases grant_requestsOf s b with still | ⟨r, free, holder, granted, was⟩
  · rw [still]
    exact h
  · rcases h with waits | ⟨none', held, _⟩
    · rw [waits] at was
      by_cases same : r.bay = b
      · rw [if_pos same] at was
        obtain ⟨rfl, left⟩ := List.cons.inj was
        exact .inr ⟨left.symm, by rw [holder]; rfl, granted⟩
      · rw [if_neg same] at was
        exact .inl was.symm
    · rw [free] at held
      cases held

theorem wants (h : Alone b run s) : s.wantsDrive b = true := by
  rw [← Bool.not_eq_false, wantsDrive_false_iff_requestsOf]
  rintro ⟨none', still⟩
  rcases h with waits | ⟨_, _, runs⟩
  · rw [waits] at none'
    cases none'
  · obtain ⟨y, at', eq⟩ := Option.map_eq_some_iff.mp runs
    rw [← Bool.not_eq_true, runsAt_iff, at'] at still
    exact still (congrArg some (congrArg Prod.fst eq))

theorem asks (h : Alone b run s) : Asks b run s := by
  unfold Asks State.driveRequest
  rcases h with waits | ⟨none', _, runs⟩
  · rw [← List.head?_filter, show s.drive.waiting.filter (fun r => r.bay == b) = _ from waits]
    exact .inl rfl
  · obtain ⟨y, at', eq⟩ := Option.map_eq_some_iff.mp runs
    rw [← List.head?_filter, show s.drive.waiting.filter (fun r => r.bay == b) = _ from none', at']
    obtain ⟨rfl, rfl⟩ := Prod.mk.inj eq
    exact .inr (if_pos rfl)

theorem requestRun_other {c : Bay} (run' : RunFor) (h : Alone b run s) : Alone b run (s.requestRun c run') := by
  by_cases wants : s.wantsDrive c = true
  · rw [requestRun_of_wants run' wants]
    exact h
  · have apart : c ≠ b := fun same => wants (same ▸ h.wants)
    obtain ⟨x, e, requests, holder, same⟩ := requestsOf_requestRun (b := b) run' (s := s) (c := c) (by simpa using wants)
    rw [if_neg apart, List.append_nil] at requests
    rw [e]
    refine Alone.grant ?_
    unfold Alone
    rw [requests, holder, same]
    exact h

theorem of_requestRun (free : s.wantsDrive b = false) : Alone b run (s.requestRun b run) := by
  obtain ⟨x, e, requests, _, _⟩ := requestsOf_requestRun (b := b) run free
  rw [((wantsDrive_false_iff_requestsOf s b).mp free).1, if_pos rfl] at requests
  rw [e]
  exact Alone.grant (.inl requests)

end Alone

theorem patrolBay_cases (s : State) (c : Bay) :
    (s.patrols c = true → s.patrolBay c = s.requestRun c (.role .patrol)) ∧ (s.patrols c = false → s.patrolBay c = s) :=
  ⟨fun h => if_pos h, fun h => if_neg (by rw [h]; nofun)⟩

/-- R122: a patrol visits every bay of the list that qualifies. -/
theorem patrolAll_alone (l : List Bay) : ∀ s : State, Alone b (.role .patrol) s ∨ s.patrols b = true ∧ b ∈ l →
    Alone b (.role .patrol) (l.foldl (fun x c => x.patrolBay c) s) := by
  induction l with
  | nil => exact fun s h => h.resolve_right fun k => nomatch k.2
  | cons c l ih =>
    intro s h
    refine ih _ ?_
    dsimp only
    obtain ⟨visits, passes⟩ := patrolBay_cases s c
    cases qualifies : s.patrols c with
    | false =>
      rw [passes qualifies]
      refine h.imp id fun k => ⟨k.1, (List.mem_cons.mp k.2).resolve_left fun same => ?_⟩
      rw [← same, k.1] at qualifies
      cases qualifies
    | true =>
      rw [visits qualifies]
      rcases h with alone | ⟨patrols, mem⟩
      · exact .inl (alone.requestRun_other _)
      · by_cases same : c = b
        · subst same
          exact .inl (.of_requestRun (State.patrols_iff.mp qualifies).2.2)
        · obtain ⟨_, _, e⟩ := s.requestRun_sets c (.role .patrol)
          obtain ⟨docked, none', free⟩ := State.patrols_iff.mp patrols
          refine .inr ⟨State.patrols_iff.mpr ⟨?_, ?_, requestRun_unwanted _ same free⟩,
            (List.mem_cons.mp mem).resolve_left fun k => same k.symm⟩
          · rw [State.requestRun_bay]
            exact docked
          · rw [e]
            exact none'

/-- R122: a patrol asks for runs at the bays that qualify alone. -/
theorem patrolAll_only (l : List Bay) : ∀ s : State, s.wantsDrive b = false → ¬(b ∈ l ∧ s.patrols b = true) →
    (l.foldl (fun x c => x.patrolBay c) s).wantsDrive b = false := by
  induction l with
  | nil => exact fun s free _ => free
  | cons c l ih =>
    intro s free only
    obtain ⟨visits, passes⟩ := patrolBay_cases s c
    cases qualifies : s.patrols c with
    | false =>
      rw [List.foldl_cons, passes qualifies]
      exact ih s free fun k => only ⟨List.mem_cons_of_mem _ k.1, k.2⟩
    | true =>
      have apart : c ≠ b := fun same => only ⟨same ▸ List.mem_cons_self .., same ▸ qualifies⟩
      rw [List.foldl_cons, visits qualifies]
      refine ih _ (requestRun_unwanted _ apart free) fun k => only ⟨List.mem_cons_of_mem _ k.1, ?_⟩
      obtain ⟨_, _, e⟩ := s.requestRun_sets c (.role .patrol)
      obtain ⟨docked, none', _⟩ := State.patrols_iff.mp k.2
      rw [State.requestRun_bay] at docked
      rw [e] at none'
      exact State.patrols_iff.mpr ⟨docked, none', free⟩

theorem patrolAll_sets (l : List Bay) : ∀ s : State, ∃ d r,
    l.foldl (fun x c => x.patrolBay c) s = { s with drive := d, run := r } := by
  induction l with
  | nil => exact fun s => ⟨_, _, rfl⟩
  | cons c l ih =>
    intro s
    obtain ⟨visits, passes⟩ := patrolBay_cases s c
    rw [List.foldl_cons]
    cases qualifies : s.patrols c with
    | false =>
      rw [passes qualifies]
      exact ih s
    | true =>
      obtain ⟨d, r, e⟩ := s.requestRun_sets c (.role .patrol)
      rw [visits qualifies, e]
      exact ih _

/-- Settles O35: `State.beginRelatch_asks` for the take timer; `patrolAll_alone` and `patrolAll_only` for the patrol. -/
theorem takeAndPatrolTimers : Obligations.TakeAndPatrolTimers := by
  refine ⟨fun s b opened running free => ?take, fun s running => ?patrol⟩
  case take =>
    have e : exec (.takeTimerExpiry b) s = .next (s.beginRelatch b .notTaken).closingCheck :=
      congrArg Host.Outcome.next (if_pos ⟨opened, Option.isSome_iff_ne_none.mpr running⟩)
    obtain ⟨bay, asks, told, table, store, rlc⟩ := State.beginRelatch_asks .notTaken free
    rw [e]
    exact ⟨_, rfl, (State.closingCheck_bay _ b).trans bay, Asks.closingCheck asks, Told.closingCheck told,
      (State.closingCheck_table _).trans table, (State.closingCheck_store _).trans store, (State.closingCheck_rlc _).trans rlc⟩
  case patrol =>
    have e : exec .patrolTimerExpiry s = .next (s.fittedBays.foldl (fun x b => x.patrolBay b) s.startPatrol) :=
      congrArg Host.Outcome.next (if_pos (Option.isSome_iff_ne_none.mpr running))
    obtain ⟨d, r, sets⟩ := patrolAll_sets s.fittedBays s.startPatrol
    have fitted (b : Bay) : b ∈ s.fittedBays ↔ b.val < s.cfg.baysFitted := by
      unfold State.fittedBays State.fitted
      simp [mem_allBays]
    refine ⟨_, e, by rw [sets]; rfl, by rw [sets]; rfl, fun b => ⟨fun ⟨inside, docked, none', free⟩ => ?_, fun wants => ?_⟩⟩
    · exact (patrolAll_alone _ s.startPatrol (.inr ⟨State.patrols_iff.mpr ⟨docked, none', free⟩, (fitted b).mpr inside⟩)).asks
    · refine Classical.byContradiction fun neither => ?_
      rw [not_or, Bool.not_eq_true] at neither
      refine Bool.noConfusion (wants.symm.trans (patrolAll_only _ s.startPatrol neither.1 fun k => neither.2 ?_))
      obtain ⟨docked, none', _⟩ := State.patrols_iff.mp k.2
      exact ⟨(fitted b).mp k.1, docked, none'⟩

end Sys2Proof.Safety
end

section
/-! SUPPORT. Settling: the settle timer's expiry, the hand-over of the held claim and its end without a bay (R63, R104 to R106,
R123, R124). -/

namespace Sys2Proof.Machine

open Sys2Proof.Safety

/-- R63: the post as its claim for a token has become OWN-HELD, before the hand-over. -/
def State.heldFor (s : State) (t : TokenId) : State := { s with
  table := changedTable s.table t (fun e => if e.status = .ownSettling then { e with status := .ownHeld } else e)
  ce := { s.ce with settle := none } }

theorem State.bay_set (s : State) (b c : Bay) (x : BayRecord) :
    (s.bays.set b x).get c = if c = b then x else s.bay c := s.bay_updateBay b c (fun _ => x)

variable {s : State} {tok : Token} {e : Entry}

/-- R63: the entries while the claim is handed over. -/
theorem State.heldFor_entry (known : s.entry tok.id = some e) (settling : e.status = .ownSettling) :
    (s.heldFor tok.id).entry tok.id = some { e with status := .ownHeld } ∧
      ∀ u, u ≠ tok.id → (s.heldFor tok.id).entry u = s.entry u := by
  have same (u : TokenId) : (s.heldFor tok.id).entry u = (s.updateEntry tok.id (fun e =>
      some (if e.status = .ownSettling then { e with status := .ownHeld } else e))).entry u :=
    State.entry_of_table (congrArg State.table (s.updateEntry_changed tok.id _)).symm u
  refine ⟨?_, fun u other => ?_⟩
  · rw [same, State.entry_changed _ _ _ _ (fun _ => by split <;> rfl), if_pos rfl, known, Option.map_some, if_pos settling]
  · rw [same, State.entry_changed _ _ _ _ (fun _ => by split <;> rfl), if_neg other]

/-- R63: at settle expiry the claim is handed over, or on. -/
theorem State.settled_hands {n : Nat} (phase : s.tap.phase = .settling) (token : s.tap.token = some tok) :
    s.settled ⟨n, tok.id⟩ = (s.heldFor tok.id).handFirst tok := by
  have held : (s.updateEntry tok.id (fun e =>
      some (if e.status = .ownSettling then { e with status := .ownHeld } else e))).setCe { s.ce with settle := none } =
        s.heldFor tok.id := by
    rw [State.updateEntry_changed]
    rfl
  have claims : (s.heldFor tok.id).claims .settling tok.id = true := State.claims_of (s := s) rfl phase token
  unfold State.settled
  dsimp only
  rw [held, show (s.heldFor tok.id).tap.token = some tok from token]
  exact if_pos claims

/-- R104: the chosen bay has the claim where it is still RESERVED. -/
theorem State.handFirst_cases {b : Bay} (chosen : s.tap.chosen = some b) :
    ((s.bay b).state = .reserved → s.handFirst tok = s.handClaim tok s.tap.position b) ∧
      ((s.bay b).state ≠ .reserved → s.handFirst tok = s.walkOn tok) := by
  unfold State.handFirst
  rw [chosen]
  exact ⟨fun h => if_pos h, fun h => if_neg h⟩

/-- R104, R105: eligibility is the same before and after the entry is OWN-HELD. -/
theorem State.heldFor_next (t : TokenId) (j : Nat) (d : Bay) :
    NextCandidate (s.heldFor t) tok j d ↔ NextCandidate s tok j d :=
  nextCandidate_of rfl rfl fun _ => canServe_of rfl rfl rfl rfl

end Sys2Proof.Machine

namespace Sys2Proof.Safety

open Sys2Proof.Machine

/-- R104: what a bay's record, the table and the tap are once a settled claim has been handed to the bay. -/
theorem handed_over {s : State} {tok : Token} {e : Entry} (i : Nat) (d : Bay) (known : s.entry tok.id = some e)
    (settling : e.status = .ownSettling) :
    ∃ tb dr r, ((s.heldFor tok.id).handClaim tok i d).closingCheck = { s with
        ce := { s.ce with settle := none }, table := tb, drive := dr, run := r
        bays := s.bays.set d { s.bay d with claim := some tok.id, state := .releasing }
        tap := { s.tap with position := i, chosen := some d, rotation := d, phase := .releaseStart } } ∧
      ((s.heldFor tok.id).handClaim tok i d).closingCheck.entry tok.id = some { e with status := .ownHeld, bay := some d } ∧
      (∀ u, u ≠ tok.id → ((s.heldFor tok.id).handClaim tok i d).closingCheck.entry u = s.entry u) ∧
      (s.runsAt d = false → Asks d (.role .release) ((s.heldFor tok.id).handClaim tok i d).closingCheck) := by
  obtain ⟨held, others⟩ := State.heldFor_entry known settling
  obtain ⟨tb, dr, r, sets, named, rest, asks, _⟩ := State.handClaim_spec i held (b := d) rfl
  have busy : ((s.heldFor tok.id).handClaim tok i d).closingCheck = (s.heldFor tok.id).handClaim tok i d :=
    State.closingCheck_busy (by rw [sets]; nofun)
  rw [busy]
  exact ⟨tb, dr, r, sets, named, fun u other => (rest u other).trans (others u other), asks⟩

/-- Settles O34: the branches of `State.handFirst_cases`, the walk by `State.walkOn_found` and `State.walkOn_none`. -/
theorem settleExpiryHandsOverOrEndsTheClaim : Obligations.SettleExpiryHandsOverOrEndsTheClaim := by
  intro s tok b n e timer known settling phase token chosen
  have expiry : exec .settleExpiry s = .next ((s.heldFor tok.id).handFirst tok).closingCheck := by
    rw [← State.settled_hands (n := n) phase token]
    change Host.Outcome.next _ = _
    rw [timer]
  obtain ⟨reserved, lost⟩ := State.handFirst_cases (s := s.heldFor tok.id) (tok := tok) (b := b) chosen
  rw [expiry]
  refine ⟨fun state free => ?first, fun state j d next => ?next, fun state none' law => ?exhausted⟩
  case first =>
    obtain ⟨tb, dr, r, sets, named, rest, asks⟩ := handed_over s.tap.position b known settling
    rw [reserved state]
    refine ⟨_, rfl, (congrArg State.ce sets :), named, rest, ?_, asks ((s.wantsDrive_false_iff b).mp free).2, ?_,
      (congrArg State.store sets :), (congrArg State.rlc sets :)⟩
    · refine (congrArg (fun x : State => x.bay b) sets).trans ?_
      exact (State.bay_set s b b _).trans (if_pos rfl)
    · refine (congrArg State.tap sets).trans ?_
      rw [← chosen]
  case next =>
    obtain ⟨tb, dr, r, sets, named, rest, asks⟩ := handed_over j d known settling
    have serves : CanServe s tok d := next.2.2.1
    rw [lost state, State.walkOn_found (State.heldFor_next _ j d |>.mpr next)]
    refine ⟨_, rfl, (congrArg State.ce sets :), named, rest, ?_, fun c other => ?_, asks serves.2.2.2.2.2,
      (congrArg State.tap sets :), (congrArg State.store sets :)⟩
    · refine (congrArg (fun x : State => x.bay d) sets).trans ?_
      exact (State.bay_set s d d _).trans (if_pos rfl)
    · refine (congrArg (fun x : State => x.bay c) sets).trans ?_
      exact (State.bay_set s d c _).trans (if_neg other)
  case exhausted =>
    obtain ⟨held, others⟩ := State.heldFor_entry known settling
    have law' : TableLaw (s.heldFor tok.id) := by
      refine TableLaw.of_table (s := s.updateEntry tok.id (fun e =>
        some (if e.status = .ownSettling then { e with status := .ownHeld } else e))) ?_ (law.updateEntry fun x y is gives => ?_)
      · rw [State.updateEntry_changed]
        rfl
      · cases gives
        split
        · exact is
        · exact is
    obtain ⟨tb, l, st, aq, p, q, a, sets, gone, rest, lapse, record, told, _, _⟩ := State.exhaust_spec law' held rfl
    rw [lost state, State.walkOn_none (fun j d next => none' j d ((State.heldFor_next _ j d).mp next)),
      State.closingCheck_busy (by rw [sets]; nofun)]
    exact ⟨_, rfl, (congrArg State.ce sets :), gone, fun u other => (rest u other).trans (others u other), lapse, record,
      (congrArg State.tap sets :), told, (congrArg State.bays sets :)⟩

end Sys2Proof.Safety
end

section
/-! SUPPORT. Presents: the PRESENT being collected, the intake tests, and the token checks (R2 to R9, R59, R94, R96 to R102). -/

namespace Sys2Proof.Machine

open Sys2Proof.Safety

variable {s : State}

/-! ### Collecting -/

theorem State.stopCollecting_eq (s : State) : s.stopCollecting = { s with tap := uncollected s.tap } := rfl

/-- R94: who answers a PRESENT found unreadable. -/
theorem State.unreadable_cases (s : State) :
    (s.tap.collecting = some .transaction → s.unreadable =
      State.endTransaction { s with tap := uncollected s.tap } (if s.tap.closed = true then .postClosed else .malformed)) ∧
    (s.tap.collecting = some .second → s.unreadable = State.answerSecond { s with tap := uncollected s.tap } .malformed) := by
  unfold State.unreadable
  exact ⟨fun h => by rw [h]; rfl, fun h => by rw [h]; rfl⟩

theorem State.arrived_unreadable {bytes : List Byte} (unread : readPresent bytes = none) : s.arrived bytes = s.unreadable := by
  unfold State.arrived
  rw [unread]

/-- R97, R98: what a readable PRESENT comes to. -/
theorem State.arrived_readable {bytes : List Byte} {tok : Token} (read : readPresent bytes = some tok) :
    (s.tap.collecting = some .transaction → s.arrived bytes = State.intake { s with tap := uncollected s.tap } tok) ∧
    (s.tap.collecting = some .second → s.arrived bytes =
      if s.secondAgainst = some tok.id then { s with tap := uncollected s.tap }
      else State.answerSecond { s with tap := uncollected s.tap } .busy) := by
  unfold State.arrived
  rw [read]
  exact ⟨fun h => by rw [h]; rfl, fun h => by rw [h]; rfl⟩

/-- R93, R98: an answer to a second presentation is placed while fewer than 3 wait. -/
theorem State.answerSecond_cases (s : State) (v : Verdict) :
    ((s.link.list.filter TapMessage.answersSecond).length < 3 →
      ∃ l, s.answerSecond v = { s with link := l } ∧
        (TapMessage.verdict v .second ∈ l.list ∨ l.sending = some (.verdict v .second))) ∧
    (3 ≤ (s.link.list.filter TapMessage.answersSecond).length → s.answerSecond v = s) := by
  refine ⟨fun room => ⟨_, if_pos room, s.placeMessage_told (.verdict v .second)⟩, fun full => if_neg (Nat.not_lt.mpr full)⟩

/-! ### Intake tests -/

theorem Token.malformed_iff (t : Token) : t.malformed = true ↔
    (t.id = 0 ∨ (32 ≤ t.targetPost.toNat ∧ t.targetPost.toNat ≤ 254) ∨ (4 ≤ t.targetBay.toNat ∧ t.targetBay.toNat ≤ 254)
      ∨ (4 ≤ t.cls.toNat ∧ t.cls.toNat ≤ 14) ∨ t.notAfter.toNat < t.notBefore.toNat) := by
  unfold Token.malformed
  simp only [Bool.or_eq_true, Bool.and_eq_true, decide_eq_true_eq, beq_iff_eq, or_assoc]

/-- R3, R5: the stamp's tests. -/
theorem State.timeTest_cases (s : State) (t : Token) :
    (s.ssu.state = .unset ∨ s.ssu.stamp = none → s.timeTest t = some .noTime) ∧
      ∀ stamp, s.ssu.state ≠ .unset → s.ssu.stamp = some stamp → s.timeTest t = t.window stamp s.cfg.skewS := by
  unfold State.timeTest
  refine ⟨fun h => ?_, fun stamp known at' => ?_⟩
  · cases state : s.ssu.state with
    | unset => rfl
    | set => rw [h.resolve_left (by rw [state]; nofun)]
    | stale => rw [h.resolve_left (by rw [state]; nofun)]
  · rw [at']
    cases state : s.ssu.state with
    | unset => exact absurd state known
    | set => rfl
    | stale => rfl

/-- R2 to R5, R97: the intake tests in their order. -/
theorem State.intakeVerdict_eq (s : State) (t : Token) : s.intakeVerdict t = intakeAnswer s t := by
  have anySite : t.site = 65535#16 ↔ t.site.toNat = 65535 := BitVec.toNat_inj.symm
  have anyPost : t.targetPost = 255#8 ↔ t.targetPost.toNat = 255 := BitVec.toNat_inj.symm
  have site : (t.site ≠ s.cfg.site ∧ t.site ≠ 65535#16) ↔ ¬(t.site = s.cfg.site ∨ t.site.toNat = 65535) := by
    rw [not_or, ← anySite]
  have post : (t.targetPost.toNat ≠ s.strap.toNat ∧ t.targetPost ≠ 255#8) ↔
      ¬(t.targetPost.toNat = s.strap.toNat ∨ t.targetPost.toNat = 255) := by
    rw [not_or, ← anyPost]
  unfold State.intakeVerdict intakeAnswer
  refine ite_congr (propext (Token.malformed_iff t)) (fun _ => rfl) fun _ => ite_congr (propext site) (fun _ => rfl) fun _ =>
    ite_congr (propext post) (fun _ => rfl) fun _ => ?_
  obtain ⟨unknown, windowed⟩ := s.timeTest_cases t
  by_cases unset : s.ssu.state = .unset
  · rw [unknown (.inl unset), if_pos unset]
  · rw [if_neg unset]
    cases at' : s.ssu.stamp with
    | none => rw [unknown (.inr at')]
    | some stamp =>
      rw [windowed stamp unset at']
      unfold Token.window
      by_cases early : stamp.toNat + s.cfg.skewS < t.notBefore.toNat
      · simp only [if_pos early]
      · by_cases late : t.notAfter.toNat + s.cfg.skewS < stamp.toNat
        · simp only [if_neg early, if_pos late]
        · simp only [if_neg early, if_neg late]

/-- R96, R97: the intake of a transaction's token. -/
theorem State.intake_cases (s : State) (t : Token) :
    (s.tap.closed = true ∨ s.mode = .configFault → s.intake t = s.endTransaction .postClosed) ∧
    (s.tap.closed = false → s.mode ≠ .configFault →
      (∀ v, intakeAnswer s t = some v → s.intake t = s.endTransaction v) ∧
      (intakeAnswer s t = none → s.intake t =
        { s with tcu := ⟨true, some t⟩, tap := { s.tap with phase := .checking, token := some t } })) := by
  unfold State.intake
  refine ⟨fun h => if_pos h, fun opened mode => ?_⟩
  have passes : ¬(s.tap.closed = true ∨ s.mode = .configFault) := by
    rw [opened]
    exact fun h => h.elim nofun mode
  rw [if_neg passes, State.intakeVerdict_eq]
  exact ⟨fun v h => by rw [h], fun h => by rw [h]; rfl⟩

/-! ### Token checks -/

/-- R9: the lookup at the completion of a check. -/
theorem State.checkDone_cases {tok : Token} (checking : s.tap.phase = .checking) :
    (Config.keyedCode s.cfg.siteKey tok.checkedBits ≠ tok.check → s.checkDone tok = s.endTransaction .badCheck) ∧
    (Config.keyedCode s.cfg.siteKey tok.checkedBits = tok.check →
      (∀ e, s.entry tok.id = some e →
        s.checkDone tok = s.endTransaction (if e.status = .revoked then .revoked else .spent)) ∧
      (s.entry tok.id = none → s.checkDone tok = s.select tok)) := by
  unfold State.checkDone
  rw [if_pos checking]
  refine ⟨fun wrong => if_neg (by simpa [State.checkMatches] using wrong), fun right => ?_⟩
  rw [if_pos (show s.checkMatches tok = true from beq_iff_eq.mpr right)]
  unfold State.lookUp
  refine ⟨fun e known => ?_, fun unknown => by rw [unknown]⟩
  rw [known]
  dsimp only
  split <;> rfl

theorem rotationOrder_eq : ∀ p : Bay, rotationOrder p = (List.finRange 4).map (fun k : Bay => p + 1 + k) := by decide

/-- R101: the first candidate is the first eligible bay in rotation order. -/
theorem State.candidatesFor_first {tok : Token} {j : Bay} (serves : CanServe s tok (s.tap.rotation + 1 + j))
    (first : ∀ k : Bay, k.val < j.val → ¬CanServe s tok (s.tap.rotation + 1 + k)) :
    ∃ rest, s.candidatesFor tok = (s.tap.rotation + 1 + j) :: rest := by
  have place : (List.finRange 4)[j.val]? = some j := by
    rw [List.getElem?_eq_getElem (by rw [List.length_finRange]; exact j.isLt), List.getElem_finRange]
    rfl
  obtain ⟨bound, at'⟩ := List.getElem?_eq_some_iff.mp place
  have parts : List.finRange 4 = (List.finRange 4).take j.val ++ j :: (List.finRange 4).drop (j.val + 1) := by
    have := (List.take_append_drop j.val (List.finRange 4)).symm
    rw [List.drop_eq_getElem_cons bound, at'] at this
    exact this
  refine ⟨_, List.filter_eq_cons_iff.mpr ⟨((List.finRange 4).take j.val).map (fun k : Bay => s.tap.rotation + 1 + k),
    ((List.finRange 4).drop (j.val + 1)).map (fun k : Bay => s.tap.rotation + 1 + k), ?_, ?_,
    (s.eligible_iff tok _).mpr serves, rfl⟩⟩
  · refine (rotationOrder_eq _).trans ((congrArg (List.map fun k : Bay => s.tap.rotation + 1 + k) parts).trans ?_)
    rw [List.map_append, List.map_cons]
  · rintro d mem
    obtain ⟨k, taken, rfl⟩ := List.mem_map.mp mem
    obtain ⟨i, less, eq⟩ := List.mem_take_iff_getElem.mp taken
    rw [List.getElem_finRange] at eq
    rw [s.eligible_iff tok]
    refine first k ?_
    rw [← eq]
    exact Nat.lt_of_lt_of_le less (Nat.min_le_left ..)

theorem State.select_none {tok : Token} (none' : ∀ b, ¬CanServe s tok b) : s.select tok = s.endTransaction .noBike := by
  have empty : s.candidatesFor tok = [] :=
    List.filter_eq_nil_iff.mpr fun b _ => fun eligible => none' b ((s.eligible_iff tok b).mp eligible)
  unfold State.select
  rw [empty]

/-- R101, R123: the post as its chosen bay is reserved. -/
def State.reservedFor (s : State) (b : Bay) (candidates : List Bay) : State :=
  (s.setTap { s.tap with phase := .selecting, chosen := some b, candidates := candidates, position := 0 }).reserve b

theorem State.select_first {tok : Token} {b : Bay} {rest : List Bay} (candidates : s.candidatesFor tok = b :: rest) :
    s.select tok = (s.reservedFor b (b :: rest)).startClaim tok b := by
  unfold State.select
  rw [candidates]
  rfl

theorem State.reservedFor_bay (s : State) (b c : Bay) (l : List Bay) :
    (s.reservedFor b l).bay c = if c = b then { s.bay b with state := .reserved } else s.bay c :=
  (s.setTap { s.tap with phase := .selecting, chosen := some b, candidates := l, position := 0 }).bay_updateBay b c
    (fun r => { r with state := .reserved })

theorem State.claimAdmitted_iff (s : State) :
    s.claimAdmitted = true ↔ s.rlc.protocol.length < 12 ∧ ∀ q ∈ s.rlc.protocol, q.frame.kind ≠ .lapse := by
  unfold State.claimAdmitted holdsKind
  simp [Config.protocolCapacity]

/-- R24: the expiry of the claim's entry. -/
theorem State.ownExpiry_eq {tok : Token} {x : Stamp} (is : x.toNat = min 4294967295 (tok.notAfter.toNat + s.cfg.skewS)) :
    s.ownExpiry tok = x := by
  refine BitVec.eq_of_toNat_eq ?_
  unfold State.ownExpiry
  rw [BitVec.toNat_ofNat, is]
  refine Nat.mod_eq_of_lt ?_
  unfold Config.stampMax
  omega

/-- R103: a reservation given back at once leaves the bays as they were. -/
theorem State.reservedFor_giveBack {b : Bay} {l : List Bay} (docked : (s.bay b).state = .docked) :
    (s.reservedFor b l).giveBack.bays = s.bays := by
  have reserved : (s.reservedFor b l).bay b = { s.bay b with state := .reserved } := by
    rw [State.reservedFor_bay, if_pos rfl]
  have back : (s.reservedFor b l).giveBack = (s.reservedFor b l).updateBay b (fun r => { r with state := .docked }) := by
    unfold State.giveBack
    exact if_pos (by rw [reserved])
  rw [back, State.updateBay_eq]
  change (s.bays.set b _).set b _ = s.bays
  rw [PerBay.set_set, reserved]
  have same : ({ s.bay b with state := .docked } : BayRecord) = s.bay b := by rw [← docked]
  exact (congrArg (s.bays.set b) same).trans (s.bays.set_get b)

end Sys2Proof.Machine

namespace Sys2Proof.Safety

open Sys2Proof.Machine

/-! ### Collecting -/

/-- Settles O36: the phases of a start marker, and the cases of `State.unreadable_cases`. -/
theorem startMarkersAndUnreadablePresents : Obligations.StartMarkersAndUnreadablePresents := by
  refine ⟨fun s => ⟨fun starting => ?starting, fun started => ⟨fun phase => ?idle, fun phase => ?intake, fun idle intake => ?other⟩⟩,
    fun s c len bytes command => ?unread⟩
  case starting => exact congrArg Host.Outcome.next (if_pos starting)
  case idle =>
    refine congrArg Host.Outcome.next ((if_neg started).trans ?_)
    rw [phase]
    rfl
  case intake =>
    refine congrArg Host.Outcome.next ((if_neg started).trans ?_)
    rw [phase]
    rfl
  case other =>
    refine congrArg Host.Outcome.next ((if_neg started).trans ?_)
    cases phase : s.tap.phase with
    | idle => exact absurd phase idle
    | intake => exact absurd phase intake
    | _ => rfl
  case unread =>
    have e : exec c s = .next s.unreadable := by
      rcases command with ⟨rfl, wrong⟩ | ⟨rfl, running⟩ | ⟨rfl, unread⟩
      · exact congrArg Host.Outcome.next (if_neg wrong)
      · exact congrArg Host.Outcome.next (if_pos (Option.isSome_iff_ne_none.mpr running))
      · exact congrArg Host.Outcome.next (State.arrived_unreadable unread)
    obtain ⟨transaction, second⟩ := s.unreadable_cases
    obtain ⟨room, full⟩ := State.answerSecond_cases { s with tap := uncollected s.tap } .malformed
    refine ⟨fun collecting v is => ?_, fun collecting => ⟨fun fewer => ?_, fun many => ?_⟩⟩
    · rw [e, transaction collecting, ← is]
      exact ⟨_, rfl, rfl, State.endTransaction_told _ _, rfl, rfl, rfl⟩
    · rw [e, second collecting]
      obtain ⟨l, placed, told⟩ := room fewer
      exact ⟨l, congrArg Host.Outcome.next placed, told⟩
    · rw [e, second collecting, full many]

/-! ### Readable presents -/

/-- Settles O37: `State.intake_cases` for the transaction's, `State.answerSecond_cases` for a second one. -/
theorem readablePresents : Obligations.ReadablePresents := by
  refine ⟨fun s bytes tok read collecting => ?transaction, fun s bytes tok known read collecting is => ?second⟩
  case transaction =>
    have e : exec (.presentFullyArrived bytes) s = .next (State.intake { s with tap := uncollected s.tap } tok) :=
      congrArg Host.Outcome.next ((State.arrived_readable read).1 collecting)
    obtain ⟨closed, admitted⟩ := State.intake_cases { s with tap := uncollected s.tap } tok
    rw [e]
    refine ⟨fun h => ?_, fun opened mode => ⟨fun v answer => ?_, fun answer => ?_⟩⟩
    · rw [closed h]
      exact ⟨_, rfl, State.endTransaction_told _ _, rfl, rfl⟩
    · rw [(admitted opened mode).1 v answer]
      exact ⟨_, rfl, State.endTransaction_told _ _, rfl, rfl, rfl⟩
    · rw [(admitted opened mode).2 answer]
  case second =>
    have e : exec (.presentFullyArrived bytes) s = .next (if s.secondAgainst = some tok.id then { s with tap := uncollected s.tap }
        else State.answerSecond { s with tap := uncollected s.tap } .busy) :=
      congrArg Host.Outcome.next ((State.arrived_readable read).2 collecting)
    have against : s.secondAgainst = known := is.symm
    obtain ⟨room, full⟩ := State.answerSecond_cases { s with tap := uncollected s.tap } .busy
    rw [e, against]
    refine ⟨fun same => by rw [if_pos same], fun other => ?_⟩
    rw [if_neg other]
    refine ⟨fun fewer => ?_, fun many => by rw [full many]⟩
    obtain ⟨l, placed, told⟩ := room fewer
    exact ⟨l, congrArg Host.Outcome.next placed, told⟩

/-! ### Token checks -/

theorem exec_tokenCheckCompletion {s : State} {tok : Token} (busy : s.tcu = ⟨true, some tok⟩) :
    exec .tokenCheckCompletion s = .next ((s.setTcu ⟨false, none⟩).checkDone tok).closingCheck := by
  change Host.Outcome.next _ = _
  rw [busy]

/-- Settles O38: each refusal ends the transaction (`State.checkDone_cases`, `State.select_none`). -/
theorem tokenChecksThatRefuse : Obligations.TokenChecksThatRefuse := by
  intro s tok v busy checking why
  have refused : (s.setTcu ⟨false, none⟩).checkDone tok = (s.setTcu ⟨false, none⟩).endTransaction v := by
    obtain ⟨wrong, right⟩ := State.checkDone_cases (s := s.setTcu ⟨false, none⟩) (tok := tok) checking
    rcases why with ⟨differs, rfl⟩ | ⟨same, ⟨e, known, rfl⟩ | ⟨unknown, none', rfl⟩⟩
    · exact wrong differs
    · exact (right same).1 e known
    · exact ((right same).2 unknown).trans (State.select_none none')
  rw [exec_tokenCheckCompletion busy, refused, State.closingCheck_busy (by nofun)]
  exact ⟨_, rfl, rfl, rfl, State.endTransaction_told _ _, rfl, rfl, rfl, rfl⟩

/-- R59: an OWN-PENDING entry is inserted where a free index or an eviction makes room. -/
theorem ownEntry_inserted {y : State} {e : Entry} {i : Nat} (unknown : y.entry e.token = none)
    (place : y.table.findIdx? Option.isNone = some i ∨ Evicts y.table i) :
    ∃ aq q, y.insertEntry e = { y with table := y.table.set i (some e), aq := aq, rlc := { y.rlc with service := q } } ∧
      (y.table.findIdx? Option.isNone = some i → q = y.rlc.service ∧ aq = y.aq) ∧
      (Evicts y.table i → y.mode.working = true → y.masked .table = false →
        (Source.table, Code.tablePressure) ∈ attentionPairs (y.insertEntry e)) := by
  by_cases free : y.table.findIdx? Option.isNone = some i
  · refine ⟨y.aq, y.rlc.service, y.insertEntry_free e i unknown free, fun _ => ⟨rfl, rfl⟩, fun evicts => ?_⟩
    obtain ⟨bound, empty, _⟩ := List.findIdx?_eq_some_iff_getElem.mp free
    have full := evicts.1 _ (List.getElem_mem bound)
    rw [Option.isNone_iff_eq_none] at empty
    rw [empty] at full
    cases full
  · obtain ⟨aq, q, e', records⟩ := insertEntry_evicting unknown (place.resolve_left free)
    exact ⟨aq, q, e', fun h => absurd h free, fun _ => records⟩

/-- Settles O39: the chosen bay is the first candidate (`State.candidatesFor_first`), and the claim starts or is given back. -/
theorem tokenChecksThatStartAClaim : Obligations.TokenChecksThatStartAClaim := by
  intro s tok b j i x busy checking right unknown is serves first place expiry
  subst is
  obtain ⟨rest, candidates⟩ := State.candidatesFor_first (s := s.setTcu ⟨false, none⟩) serves first
  have selected : (s.setTcu ⟨false, none⟩).checkDone tok =
      ((s.setTcu ⟨false, none⟩).reservedFor (s.tap.rotation + 1 + j) ((s.tap.rotation + 1 + j) :: rest)).startClaim tok
        (s.tap.rotation + 1 + j) :=
    (((State.checkDone_cases (s := s.setTcu ⟨false, none⟩) checking).2 right).2 unknown).trans (State.select_first candidates)
  have docked : (s.bay (s.tap.rotation + 1 + j)).state = .docked := serves.2.1
  have bay (c : Bay) := State.reservedFor_bay (s.setTcu ⟨false, none⟩) (s.tap.rotation + 1 + j) c ((s.tap.rotation + 1 + j) :: rest)
  have back := State.reservedFor_giveBack (s := s.setTcu ⟨false, none⟩) (l := (s.tap.rotation + 1 + j) :: rest) docked
  rw [exec_tokenCheckCompletion busy, selected]
  generalize s.tap.rotation + 1 + j = b at bay back
  generalize hy : (s.setTcu ⟨false, none⟩).reservedFor b (b :: rest) = y at bay back
  have rlc : y.rlc = s.rlc := by rw [← hy]; rfl
  refine ⟨fun room lapses => ?claims, fun refused => ?busy⟩
  case claims =>
    have admitted : y.claimAdmitted = true := (State.claimAdmitted_iff y).mpr (by rw [rlc]; exact ⟨room, lapses⟩)
    have entry : y.ownEntry tok b = ⟨tok.id, .ownPending, some s.strap, some b, x, false⟩ := by
      have own : y.ownExpiry tok = x := State.ownExpiry_eq (by rw [← hy]; exact expiry)
      unfold State.ownEntry
      rw [own, ← hy]
      rfl
    obtain ⟨aq, q, inserted, kept, records⟩ := ownEntry_inserted (y := y) (e := y.ownEntry tok b) (i := i)
      (by rw [← hy]; exact unknown) (by rw [← hy]; exact place)
    have queued := State.queueProtocol_room (s := y.insertEntry (y.ownEntry tok b)) (.claim tok.id b (y.ownExpiry tok))
      (by rw [inserted]; change y.rlc.protocol.length < 12; rw [rlc]; exact room)
    have started : y.startClaim tok b =
        ((y.insertEntry (y.ownEntry tok b)).queueProtocol (.claim tok.id b (y.ownExpiry tok))).setTap
          { ((y.insertEntry (y.ownEntry tok b)).queueProtocol (.claim tok.id b (y.ownExpiry tok))).tap with
            phase := .claiming } := if_pos admitted
    rw [queued, inserted] at started
    rw [started, State.closingCheck_busy (by nofun)]
    refine ⟨_, rfl, ?_, rfl, ?_, ?_, ?_, (bay b).trans (if_pos rfl), fun c other => (bay c).trans (if_neg other), ?_, ?_,
      fun free => ⟨?_, ?_⟩, fun evicts working unmasked => ?_⟩
    · rw [← hy]
      rfl
    · rw [← hy]
      rfl
    · rw [← hy]
      rfl
    · rw [← hy]
      rfl
    · change y.table.set i (some (y.ownEntry tok b)) = _
      rw [entry, ← hy]
      rfl
    · refine List.mem_append_right _ ?_
      have own : y.ownExpiry tok = x := congrArg Entry.expiry entry
      rw [own]
      exact List.mem_cons_self ..
    · change q = _
      rw [(kept (by rw [← hy]; exact free)).1, rlc]
    · change aq = _
      rw [(kept (by rw [← hy]; exact free)).2, ← hy]
      rfl
    · have recorded := records (by rw [← hy]; exact evicts) (by rw [← hy]; exact working) (by rw [← hy]; exact unmasked)
      rw [inserted] at recorded
      exact recorded
  case busy =>
    have admitted : ¬y.claimAdmitted = true := by
      rw [State.claimAdmitted_iff, rlc]
      rintro ⟨room, lapses⟩
      rcases refused with full | ⟨w, mem, lapse⟩
      · omega
      · exact lapses w mem lapse
    have given : y.startClaim tok b = y.giveBack.endTransaction .busy := if_neg admitted
    obtain ⟨bs, e⟩ := y.giveBack_sets
    rw [given, State.closingCheck_busy (by nofun)]
    refine ⟨_, rfl, ?_, rfl, rfl, back, ?_, ?_⟩
    · change y.giveBack.tcu = _
      rw [e, ← hy]
      rfl
    · change y.giveBack.table = _
      rw [e, ← hy]
      rfl
    · change y.giveBack.rlc = _
      rw [e]
      exact rlc

end Sys2Proof.Safety
end

section
/-! SUPPORT. Losses: withdrawals, the loss of a locked bicycle, and the seat's changes (R118 to R121, R125, R128, R132). -/

namespace Sys2Proof.Machine

open Sys2Proof.Safety

variable {s : State} {b : Bay}

/-! ### Single bays -/

theorem State.tryDock_bay_other {d : Bay} (other : d ≠ b) : (s.tryDock b).bay d = s.bay d := by
  unfold State.tryDock
  split
  · rw [State.requestRun_bay, State.bay_updateBay, if_neg other]
  · rfl

theorem State.runsAt_of {r : Run} (runs : s.run = some r) : s.runsAt b = true ↔ r.bay = b := by
  unfold State.runsAt
  rw [runs]
  exact beq_iff_eq

/-- R142: a stop asked of a run short of a DWELL, and of a bay without a run. -/
theorem State.requestStop_cases (s : State) (b : Bay) :
    (s.runsAt b = false → s.requestStop b = s) ∧
    ∀ r, s.run = some r → r.bay = b → r.dwelling = false → s.requestStop b = s.setRun (some { r with stop := true }) := by
  unfold State.requestStop
  refine ⟨fun still => ?_, fun r runs here moving => ?_⟩
  · cases runs : s.run with
    | none => rfl
    | some r => exact if_neg fun here => by rw [(State.runsAt_of runs).mpr here] at still; cases still
  · rw [runs]
    dsimp only
    rw [if_pos here, if_neg (by rw [moving]; nofun)]

/-! ### Falls of a sensor -/

/-- R112: the post with a sensor's level changed. -/
def State.leveled (s : State) (b : Bay) (sensor : Sensor) (level : Bool) : State :=
  s.setInput b ((s.input b).setLevel sensor level)

theorem exec_presenceFalling (working : s.mode.working = true) (present : (s.input b).presence = true) :
    exec (.presenceFalling b) s = .next ((s.leveled b .presence false).presenceFell b).closingCheck :=
  congrArg Host.Outcome.next (State.sensed_answered _ working (by change (s.input b).presence ≠ false; rw [present]; nofun))

theorem exec_seatFalling (working : s.mode.working = true) (seated : (s.input b).seat = true) :
    exec (.seatFalling b) s = .next ((s.leveled b .seat false).seatFell b).closingCheck :=
  congrArg Host.Outcome.next (State.sensed_answered _ working (by change (s.input b).seat ≠ false; rw [seated]; nofun))

theorem exec_seatRising (working : s.mode.working = true) (clear : (s.input b).seat = false) :
    exec (.seatRising b) s = .next ((s.leveled b .seat true).tryDock b).closingCheck :=
  congrArg Host.Outcome.next (State.sensed_answered _ working (by change (s.input b).seat ≠ true; rw [clear]; nofun))

theorem exec_homeFalling (working : s.mode.working = true) (home : (s.input b).home = true) :
    exec (.homeFalling b) s = .next ((s.leveled b .home false).latchLost b .latchFail).closingCheck :=
  congrArg Host.Outcome.next (State.sensed_answered _ working (by change (s.input b).home ≠ false; rw [home]; nofun))

theorem exec_driverFaultRising (working : s.mode.working = true) (sound : (s.input b).driverFault = false) :
    exec (.driverFaultRising b) s = .next ((s.driverInput b true).latchLost b .driverFault).closingCheck := by
  refine congrArg Host.Outcome.next ((if_neg (by rw [sound]; nofun)).trans ?_)
  exact if_pos working

theorem State.leveled_input (sensor : Sensor) (level : Bool) :
    (s.leveled b sensor level).input b = (s.input b).setLevel sensor level := by
  unfold State.leveled State.input
  exact (PerBay.get_set _ _ _ _).trans (if_pos rfl)

/-- R118, R121, R125, R128: the answers to presence falling. -/
theorem State.presenceFell_cases (s : State) (b : Bay) :
    ((s.bay b).tagRead.isSome = true → s.presenceFell b = s.forceBay b) ∧
    ((s.bay b).tagRead = none →
      ((s.bay b).state = .docked ∨ (s.bay b).state = .reserved → s.presenceFell b = s.forceBay b) ∧
      ((s.bay b).state = .opened → s.presenceFell b = s.withdrawal b) ∧
      ((s.bay b).state = .relatching → s.presenceFell b = s.lateWithdrawal b)) := by
  unfold State.presenceFell
  refine ⟨fun reading => if_pos reading, fun none' => ?_⟩
  rw [if_neg (by rw [none']; nofun)]
  refine ⟨fun h => ?_, fun h => by rw [h], fun h => by rw [h]⟩
  rcases h with h | h <;> rw [h]

/-- R118, R120, R121: the answers to the seat falling. -/
theorem State.seatFell_cases (s : State) (b : Bay) :
    ((s.bay b).tagRead.isSome = true → s.seatFell b = s.forceBay b) ∧
    ((s.bay b).tagRead = none →
      ((s.bay b).state = .docked ∨ (s.bay b).state = .reserved → s.seatFell b = s.forceBay b) ∧
      ((s.bay b).state = .docking → s.seatFell b = s.undock b)) := by
  unfold State.seatFell
  refine ⟨fun reading => if_pos reading, fun none' => ?_⟩
  rw [if_neg (by rw [none']; nofun)]
  refine ⟨fun h => ?_, fun h => by rw [h]⟩
  rcases h with h | h <;> rw [h]

theorem State.latchLost_loses {code : FaultCode} (still : s.runsAt b = false)
    (state : (s.bay b).state = .docked ∨ (s.bay b).state = .reserved) : s.latchLost b code = s.loseBay b code := by
  unfold State.latchLost
  rw [if_neg (by rw [still]; nofun)]
  rcases state with h | h <;> rw [h]

/-- R118, R121: the loss of a bay without a run. -/
theorem State.forceBay_loses (still : s.runsAt b = false) : s.forceBay b = s.loseBay b .forcedRemoval := by
  refine (State.requestStop_cases (s.loseBay b .forcedRemoval) b).1 ?_
  obtain ⟨bs, l, aq, q, e⟩ := s.loseBay_sets b .forcedRemoval
  unfold State.runsAt
  rw [e]
  exact still

end Sys2Proof.Machine

namespace Sys2Proof.Safety

open Sys2Proof.Machine

/-! ### Bays lost -/

/-- R178: the check for the end of CLOSING leaves a bay's fault as it is. -/
theorem Faulted.closingCheck {s t : State} {b : Bay} {code : FaultCode} {x : BayRecord} (h : Faulted b code x s t) :
    Faulted b code x s t.closingCheck := by
  obtain ⟨bay, told, records⟩ := h
  refine ⟨(State.closingCheck_bay _ b).trans bay, Told.closingCheck told, fun working unmasked => ?_⟩
  rw [attentionPairs_of_aq (State.closingCheck_aq _)]
  exact records working unmasked

theorem OnlyBay.closingCheck {s t : State} {b : Bay} (h : OnlyBay b s t) : OnlyBay b s t.closingCheck := by
  obtain ⟨others, table, ce, tap, store, protocol⟩ := h
  refine ⟨fun d other => (State.closingCheck_bay _ d).trans (others d other), (State.closingCheck_table _).trans table,
    (State.closingCheck_ce _).trans ce, (State.closingCheck_tap _).trans tap, (State.closingCheck_store _).trans store, ?_⟩
  rw [State.closingCheck_rlc]
  exact protocol

theorem loseBay_faulted {s y : State} {b : Bay} (code : FaultCode) (is : ∃ i, y = { s with inputs := i }) :
    Faulted b code { s.bay b with bikeId := none, bikeClass := none } s (y.loseBay b code) ∧
      OnlyBay b s (y.loseBay b code) ∧ (y.loseBay b code).run = s.run ∧ (y.loseBay b code).inputs = y.inputs ∧
      (y.loseBay b code).drive = { s.drive with waiting := s.drive.waiting.filter (fun q => q.bay != b) } := by
  obtain ⟨i, rfl⟩ := is
  obtain ⟨l, aq, q, e⟩ := State.faultBay_sets (({ s with inputs := i } : State).updateBay b BayRecord.noBike) b code false
  have records := (State.faultBay_pairs (({ s with inputs := i } : State).updateBay b BayRecord.noBike) b code false).2 rfl
  have bay : ((({ s with inputs := i } : State).updateBay b BayRecord.noBike).faultBay b code false).bay b =
      ((s.bay b).noBike).faulted code := by
    rw [e]
    refine (State.bay_set _ b b _).trans ((if_pos rfl).trans ?_)
    rw [State.bay_updateBay, if_pos rfl]
    rfl
  have told := State.faultBay_told (({ s with inputs := i } : State).updateBay b BayRecord.noBike) b code false
  refine ⟨⟨bay, told, records⟩, ⟨fun d other => ?_, ?_, ?_, ?_, ?_, ?_⟩, ?_, ?_, ?_⟩
  case refine_1 =>
    rw [State.loseBay, e]
    refine (State.bay_set _ b d _).trans ((if_neg other).trans ?_)
    rw [State.bay_updateBay, if_neg other]
    rfl
  all_goals
    rw [State.loseBay, e]
    rfl

/-- Settles O43: each fall loses the bay (`loseBay_faulted`). -/
theorem lossOfALockedBicycle : Obligations.LossOfALockedBicycle := by
  intro s b c code working still locked event
  have lost : ∃ y : State, (∃ i, y = { s with inputs := i }) ∧ exec c s = .next (y.loseBay b code).closingCheck := by
    have latched : code ≠ .forcedRemoval → (s.bay b).state = .docked ∨ (s.bay b).state = .reserved :=
      fun other => locked.elim And.right fun h => absurd h.2.1 other
    rcases event with ⟨rfl, rfl, present⟩ | ⟨rfl, rfl, seated⟩ | ⟨rfl, rfl, home⟩ | ⟨rfl, rfl, sound⟩
    · obtain ⟨reading, idle⟩ := (s.leveled b .presence false).presenceFell_cases b
      have forced : (s.leveled b .presence false).presenceFell b = (s.leveled b .presence false).forceBay b := by
        rcases locked with ⟨none', state⟩ | ⟨⟨n, reads⟩, _⟩
        · exact (idle none').1 state
        · exact reading (by change (s.bay b).tagRead.isSome = true; rw [reads]; rfl)
      exact ⟨s.leveled b .presence false, ⟨_, rfl⟩, by rw [exec_presenceFalling working present, forced, State.forceBay_loses (s := s.leveled b .presence false) still]⟩
    · obtain ⟨reading, idle⟩ := (s.leveled b .seat false).seatFell_cases b
      have forced : (s.leveled b .seat false).seatFell b = (s.leveled b .seat false).forceBay b := by
        rcases locked with ⟨none', state⟩ | ⟨⟨n, reads⟩, _⟩
        · exact (idle none').1 state
        · exact reading (by change (s.bay b).tagRead.isSome = true; rw [reads]; rfl)
      exact ⟨s.leveled b .seat false, ⟨_, rfl⟩, by rw [exec_seatFalling working seated, forced, State.forceBay_loses (s := s.leveled b .seat false) still]⟩
    · exact ⟨s.leveled b .home false, ⟨_, rfl⟩, by
        rw [exec_homeFalling working home, State.latchLost_loses (s := s.leveled b .home false) still (latched nofun)]⟩
    · exact ⟨s.driverInput b true, ⟨_, rfl⟩, by
        rw [exec_driverFaultRising working sound, State.latchLost_loses (s := s.driverInput b true) still (latched nofun)]⟩
  obtain ⟨y, is, e⟩ := lost
  obtain ⟨faulted, only, run, _, drive⟩ := loseBay_faulted (b := b) code is
  refine ⟨_, e, Faulted.closingCheck faulted, OnlyBay.closingCheck only, ?_, (State.closingCheck_run _).trans run⟩
  rw [requestWaits_eq_false_iff, State.closingCheck_drive, drive]
  rintro mem
  obtain ⟨r, kept, same⟩ := List.mem_map.mp mem
  have apart := (List.mem_filter.mp kept).2
  rw [same] at apart
  simp at apart

/-! ### The seat -/

/-- Settles O44: `State.tryDock_spec` as the seat rises; the branches of `State.undock` as it falls. -/
theorem seatChanges : Obligations.SeatChanges := by
  intro s b working
  refine ⟨fun clear state free => ⟨fun room => ?docks, fun full => ?stays⟩,
    fun seated state none' => ⟨fun still waits => ?empties, fun r runs here moving => ?stops⟩⟩
  case docks =>
    obtain ⟨_, docks⟩ := State.tryDock_spec (y := s.leveled b .seat true) state free
    obtain ⟨bay, _, asks⟩ := docks (by rw [State.leveled_input]; rfl) room
    obtain ⟨_, _, _, e⟩ := (s.leveled b .seat true).tryDock_sets b
    refine ⟨_, exec_seatRising working clear, (State.closingCheck_bay _ b).trans bay, Asks.closingCheck asks, ?_, ?_⟩
    · rw [State.closingCheck_store, e]
      rfl
    · rw [State.closingCheck_table, e]
      rfl
  case stays =>
    obtain ⟨stays, _⟩ := State.tryDock_spec (y := s.leveled b .seat true) state free
    rw [exec_seatRising working clear, stays (.inr full)]
    rfl
  case empties =>
    have undocked : (s.leveled b .seat false).seatFell b = ((s.leveled b .seat false).withdraw b).enterEmpty b :=
      (((s.leveled b .seat false).seatFell_cases b).2 none').2 state |>.trans
        ((if_neg (by change ¬s.runsAt b = true; rw [still]; nofun)).trans (if_pos waits))
    have free : (((s.leveled b .seat false).withdraw b).updateBay b (fun r => { r with state := .empty })).wantsDrive b = false :=
      State.withdraw_wants (s := s.leveled b .seat false) still
    obtain ⟨stays, _⟩ := State.tryDock_spec
      (y := ((s.leveled b .seat false).withdraw b).updateBay b (fun r => { r with state := .empty })) (b := b)
      (by rw [State.bay_updateBay, if_pos rfl]) free
    have seatless : ((((s.leveled b .seat false).withdraw b).updateBay b (fun r => { r with state := .empty })).input b).seat = false :=
      congrArg BayInputs.seat (State.leveled_input (s := s) (b := b) .seat false)
    rw [exec_seatFalling working seated, undocked]
    refine ⟨_, rfl, ?_, ?_, ?_⟩
    all_goals rw [State.enterEmpty, stays (.inl seatless)]
    · rw [State.closingCheck_bay, State.bay_updateBay, if_pos rfl]
      rfl
    · rw [State.wantsDrive_of (congrArg DriveArbiter.waiting (State.closingCheck_drive _)) (State.closingCheck_run _)]
      exact free
    · rw [State.closingCheck_store]
      rfl
  case stops =>
    have running : s.runsAt b = true := (State.runsAt_of runs).mpr here
    have calibrates : (s.leveled b .seat false).calibrate b =
        (s.leveled b .seat false).updateBay b (fun r => { r.calibrating with followOn := some .home }) := if_pos running
    have undocked : (s.leveled b .seat false).seatFell b =
        ((s.leveled b .seat false).updateBay b (fun r => { r.calibrating with followOn := some .home })).setRun
          (some { r with stop := true }) := by
      refine ((((s.leveled b .seat false).seatFell_cases b).2 none').2 state).trans ((if_pos running).trans ?_)
      rw [calibrates]
      exact (State.requestStop_cases _ b).2 r runs here moving
    rw [exec_seatFalling working seated, undocked]
    have bay : (((s.leveled b .seat false).updateBay b (fun r => { r.calibrating with followOn := some .home })).setRun
        (some { r with stop := true })).closingCheck.bay b = { (s.bay b).calibrating with followOn := some .home } := by
      rw [State.closingCheck_bay]
      exact (State.bay_updateBay (s.leveled b .seat false) b b
        (fun r => { r.calibrating with followOn := some .home })).trans (if_pos rfl)
    refine ⟨_, rfl, ?_, ?_, ?_, ?_, ?_⟩
    · rw [bay]
      rfl
    · rw [bay]
    · rw [State.closingCheck_run]
      rfl
    · rw [State.closingCheck_drive]
      rfl
    · rw [State.closingCheck_store]
      rfl

/-! ### Withdrawals -/

/-- R125, R128: a rental of bay `b` has started on the post `t`: its claim ended as taken and its START is with the store. -/
structure Rented (s : State) (b : Bay) (tok : TokenId) (e : Entry) (late : Bool) (t : State) : Prop where
  entry : t.entry tok = some { e with status := .ownTaken }
  others : ∀ u, u ≠ tok → t.entry u = s.entry u
  protocol : t.rlc.protocol = s.rlc.protocol
  tap : t.tap = s.tap
  record : Recorded (.start b tok (s.bay b).bikeId (s.bay b).bikeClass late) s t.store
  bays : ∀ d, d ≠ b → t.bay d = s.bay d
  mode : t.mode = s.mode
  image : t.image = s.image

namespace Rented

variable {s t u : State} {b : Bay} {tok : TokenId} {e : Entry} {late : Bool}

theorem of (h : Rented s b tok e late t) (table : u.table = t.table) (rlc : u.rlc.protocol = t.rlc.protocol) (tap : u.tap = t.tap)
    (store : u.store = t.store) (bays : ∀ d, d ≠ b → u.bay d = t.bay d) (mode : u.mode = t.mode) (image : u.image = t.image) :
    Rented s b tok e late u where
  entry := (State.entry_of_table table tok).trans h.entry
  others v other := (State.entry_of_table table v).trans (h.others v other)
  protocol := rlc.trans h.protocol
  tap := tap.trans h.tap
  record := store ▸ h.record
  bays d other := (bays d other).trans (h.bays d other)
  mode := mode.trans h.mode
  image := image.trans h.image

theorem updateBay (h : Rented s b tok e late t) (f : BayRecord → BayRecord) : Rented s b tok e late (t.updateBay b f) :=
  h.of rfl rfl rfl rfl (fun d other => by rw [State.bay_updateBay, if_neg other]) rfl rfl

theorem withdraw (h : Rented s b tok e late t) : Rented s b tok e late (t.withdraw b) :=
  h.of rfl rfl rfl rfl (fun _ _ => rfl) rfl rfl

theorem setRun (h : Rented s b tok e late t) (r : Option Run) : Rented s b tok e late (t.setRun r) :=
  h.of rfl rfl rfl rfl (fun _ _ => rfl) rfl rfl

theorem placeLight (h : Rented s b tok e late t) (i : Indication) : Rented s b tok e late (t.placeLight b i) := by
  obtain ⟨_, lit⟩ := t.placeLight_sets b i
  rw [lit]
  exact h.of rfl rfl rfl rfl (fun _ _ => rfl) rfl rfl

theorem tryDock (h : Rented s b tok e late t) : Rented s b tok e late (t.tryDock b) := by
  obtain ⟨_, _, _, docked⟩ := t.tryDock_sets b
  exact h.of (congrArg State.table docked :) (congrArg (fun x => x.rlc.protocol) docked :) (congrArg State.tap docked :)
    (congrArg State.store docked :) (fun d other => State.tryDock_bay_other other) (congrArg State.mode docked :)
    (congrArg State.image docked :)

end Rented

/-- R64, R125, R128: the start of a rental on a post with other inputs and records of the bays. -/
theorem startRental_rented {s : State} {b : Bay} {tok : TokenId} {e : Entry} (late : Bool) (i : PerBay BayInputs)
    (x : BayRecord) (claim : x.claim = some tok) (id : x.bikeId = (s.bay b).bikeId) (cls : x.bikeClass = (s.bay b).bikeClass)
    (known : s.entry tok = some e) (held : e.status = .ownHeld) :
    Rented s b tok e late (State.startRental { s with inputs := i, bays := s.bays.set b x } b late) ∧
      (State.startRental { s with inputs := i, bays := s.bays.set b x } b late).bay b = { x with claim := none } ∧
      (State.startRental { s with inputs := i, bays := s.bays.set b x } b late).drive = s.drive ∧
      (State.startRental { s with inputs := i, bays := s.bays.set b x } b late).run = s.run ∧
      (State.startRental { s with inputs := i, bays := s.bays.set b x } b late).inputs = i ∧
      (State.startRental { s with inputs := i, bays := s.bays.set b x } b late).link = s.link := by
  have bay : ({ s with inputs := i, bays := s.bays.set b x } : State).bay b = x := (State.bay_set s b b x).trans (if_pos rfl)
  obtain ⟨tb, st, aq, q, sets, taken, others, record⟩ := State.startRental_spec
    (y := { s with inputs := i, bays := s.bays.set b x }) (b := b) (t := tok) (e := e) late (by rw [bay]; exact claim) known held
  rw [bay, id, cls] at record
  rw [bay] at sets
  refine ⟨⟨taken, others, ?_, ?_, record, fun d other => ?_, ?_, ?_⟩, ?_, ?_, ?_, ?_, ?_⟩
  all_goals rw [sets]
  · refine (State.bay_set { s with inputs := i, bays := s.bays.set b x } b d _).trans ((if_neg other).trans ?_)
    exact (State.bay_set s b d x).trans (if_neg other)
  · exact (State.bay_set { s with inputs := i, bays := s.bays.set b x } b b _).trans (if_pos rfl)

/-- R119, R178: the bay of a rental enters EMPTY, and docks at once where it can. -/
theorem Rented.empties {s u : State} {b : Bay} {tok : TokenId} {e : Entry} {late : Bool} (h : Rented s b tok e late u)
    {z : BayRecord} (bay : u.bay b = { z with state := .empty }) (free : u.wantsDrive b = false)
    (seat : (u.input b).seat = (s.input b).seat) :
    ((s.input b).seat = false ∨ 2 ≤ ((u.tryDock b).closingCheck.pendingOf b).length →
      (u.tryDock b).closingCheck.bay b = { z with state := .empty } ∧ (u.tryDock b).closingCheck.wantsDrive b = false ∧
      (s.mode = .closing → s.tap.phase = .idle →
        (∀ c : Bay, c ≠ b → c.val < s.cfg.baysFitted → (s.bay c).state.busy = false) →
        (u.tryDock b).closingCheck.mode = .maintenance)) ∧
    ((s.input b).seat = true → ((u.tryDock b).closingCheck.pendingOf b).length < 2 →
      (u.tryDock b).closingCheck.bay b = { z with state := .docking } ∧ Asks b (.role .relatch) (u.tryDock b).closingCheck) := by
  obtain ⟨stays, docks⟩ := State.tryDock_spec (y := u) (b := b) (by rw [bay]) free
  have pending : (u.tryDock b).closingCheck.pendingOf b = u.pendingOf b := by
    obtain ⟨_, _, _, docked⟩ := u.tryDock_sets b
    unfold State.pendingOf
    rw [State.closingCheck_store, docked]
  rw [pending]
  refine ⟨fun full => ?_, fun seated room => ?_⟩
  · rw [stays (by rw [seat]; exact full)]
    refine ⟨(State.closingCheck_bay u b).trans bay, ?_, fun closing idle others => ?_⟩
    · rw [State.wantsDrive_of (congrArg DriveArbiter.waiting (State.closingCheck_drive _)) (State.closingCheck_run _)]
      exact free
    · refine (State.closingCheck_idle (h.mode.trans closing) (by rw [h.tap]; exact idle)).1 fun c inside => ?_
      by_cases same : c = b
      · rw [same, bay]
        rfl
      · rw [h.bays c same]
        refine others c same ?_
        rw [show s.cfg = u.cfg from by unfold State.cfg; rw [h.image]]
        exact inside
  · obtain ⟨docking, _, asks⟩ := docks (by rw [seat]; exact seated) room
    refine ⟨?_, Asks.closingCheck asks⟩
    rw [State.closingCheck_bay, docking, bay]

theorem Rented.closingCheck {s u : State} {b : Bay} {tok : TokenId} {e : Entry} {late : Bool} (h : Rented s b tok e late u) :
    u.closingCheck.entry tok = some { e with status := .ownTaken } ∧ (∀ v, v ≠ tok → u.closingCheck.entry v = s.entry v) ∧
      u.closingCheck.rlc.protocol = s.rlc.protocol ∧ u.closingCheck.tap = s.tap ∧
      Recorded (.start b tok (s.bay b).bikeId (s.bay b).bikeClass late) s u.closingCheck.store ∧
      ∀ d, d ≠ b → u.closingCheck.bay d = s.bay d := by
  have table := State.closingCheck_table u
  refine ⟨(State.entry_of_table table tok).trans h.entry, fun v other => (State.entry_of_table table v).trans (h.others v other),
    ?_, (State.closingCheck_tap u).trans h.tap, ?_, fun d other => (State.closingCheck_bay u d).trans (h.bays d other)⟩
  · rw [State.closingCheck_rlc]
    exact h.protocol
  · rw [State.closingCheck_store]
    exact h.record

/-- R125: the post as an OPEN bay's withdrawal leaves it, before the bay may dock. -/
theorem withdrawal_rented {s : State} {b : Bay} {tok : TokenId} {e : Entry} (i : PerBay BayInputs)
    (claim : (s.bay b).claim = some tok) (known : s.entry tok = some e) (held : e.status = .ownHeld) :
    ∃ u, State.withdrawal { s with inputs := i } b = u.tryDock b ∧ Rented s b tok e false u ∧
      u.bay b = { s.bay b with claim := none, bikeId := none, bikeClass := none, take := none, state := .empty } ∧
      u.drive = s.drive ∧ u.run = s.run ∧ u.inputs = i ∧ Told (.bayLight b .shut) u ∧
      ∀ v w, Told (.verdict v w) s → Told (.verdict v w) u := by
  obtain ⟨rented, bay, drive, run, inputs, link⟩ := startRental_rented false i { s.bay b with take := none } claim rfl rfl known held
  generalize hw : State.startRental { s with inputs := i, bays := s.bays.set b { s.bay b with take := none } } b false = w at *
  have withdrawn : State.withdrawal { s with inputs := i } b =
      ((w.updateBay b (fun r => { r.noBike with state := .empty })).placeLight b .shut).tryDock b := by
    rw [← hw]
    rfl
  obtain ⟨lk, lit⟩ := (w.updateBay b (fun r => { r.noBike with state := .empty })).placeLight_sets b .shut
  refine ⟨_, withdrawn, (rented.updateBay _).placeLight .shut, ?_, ?_, ?_, ?_, State.placeLight_told _ _ _,
    fun v x told => State.placeLight_keeps _ _ _ v x (Told.of_link told link)⟩
  · rw [State.placeLight_bay, State.bay_updateBay, if_pos rfl, bay]
    rfl
  · rw [lit]
    exact drive
  · rw [lit]
    exact run
  · rw [lit]
    exact inputs

/-- R128: the post as a RELATCHING bay's withdrawal leaves it, before the bay stops its run or enters EMPTY. -/
theorem lateWithdrawal_rented {s : State} {b : Bay} {tok : TokenId} {e : Entry} (i : PerBay BayInputs)
    (claim : (s.bay b).claim = some tok) (known : s.entry tok = some e) (held : e.status = .ownHeld) :
    ∃ u, Rented s b tok e true u ∧ u.drive = s.drive ∧ u.run = s.run ∧ u.inputs = i ∧
      u.bay b = { s.bay b with claim := none, bikeId := none, bikeClass := none, cause := none } ∧
      (s.runsAt b = true → State.lateWithdrawal { s with inputs := i } b =
        (u.updateBay b (fun r => { r with state := .reopening, followOn := some .release })).requestStop b) ∧
      (s.runsAt b = false → State.lateWithdrawal { s with inputs := i } b =
        ((u.withdraw b).updateBay b (fun r => { r with state := .empty })).tryDock b) := by
  obtain ⟨rented, bay, drive, run, inputs, _⟩ := startRental_rented true i (s.bay b) claim rfl rfl known held
  have same : ({ s with inputs := i, bays := s.bays.set b (s.bay b) } : State) = { s with inputs := i } := by
    rw [show s.bays.set b (s.bay b) = s.bays from s.bays.set_get b]
  rw [same] at rented bay drive run inputs
  generalize hw : State.startRental { s with inputs := i } b true = w at *
  have taken : State.lateWithdrawal { s with inputs := i } b =
      if (w.updateBay b (fun r => { r.noBike with cause := none })).runsAt b then
        ((w.updateBay b (fun r => { r.noBike with cause := none })).updateBay b
          (fun r => { r with state := .reopening, followOn := some .release })).requestStop b
      else ((w.updateBay b (fun r => { r.noBike with cause := none })).withdraw b).enterEmpty b := by
    rw [← hw]
    rfl
  have runs : (w.updateBay b (fun r => { r.noBike with cause := none })).runsAt b = s.runsAt b := by
    unfold State.runsAt
    rw [← run]
    rfl
  refine ⟨w.updateBay b (fun r => { r.noBike with cause := none }), rented.updateBay _, drive, run, inputs, ?_,
    fun running => ?_, fun still => ?_⟩
  · rw [State.bay_updateBay, if_pos rfl, bay]
    rfl
  · rw [taken, runs, if_pos running]
  · rw [taken, runs, if_neg (by rw [still]; nofun)]
    rfl

/-- Settles O42: a rental starts (`Rented`), and the bay enters EMPTY (`Rented.empties`) or its run is asked to stop. -/
theorem withdrawals : Obligations.Withdrawals := by
  intro s b tok e late x working present none' claim known held is state moving
  have fallen : s.leveled b .presence false = { s with inputs := s.inputs.set b ((s.input b).setLevel .presence false) } := rfl
  have seat {u : State} (inputs : u.inputs = s.inputs.set b ((s.input b).setLevel .presence false)) :
      (u.input b).seat = (s.input b).seat := by
    unfold State.input
    rw [inputs, PerBay.get_set, if_pos rfl]
    rfl
  obtain ⟨_, idle⟩ := (s.leveled b .presence false).presenceFell_cases b
  obtain ⟨_, opens, relatches⟩ := idle none'
  rw [exec_presenceFalling working present]
  rcases state with ⟨rfl, opened⟩ | ⟨rfl, relatching⟩
  · obtain ⟨u, e', rented, bay, drive, run, inputs, told, _⟩ :=
      withdrawal_rented (s.inputs.set b ((s.input b).setLevel .presence false)) claim known held
    rw [opens opened, fallen, e']
    obtain ⟨entry, others, protocol, tap, record, bays⟩ := rented.tryDock.closingCheck
    refine ⟨_, rfl, entry, others, protocol, tap, record, bays, fun z which => ?_, fun r h => nomatch h⟩
    obtain ⟨_, free, rfl⟩ := which.resolve_right fun h => nomatch h.1
    have wants : u.wantsDrive b = false := by
      rw [State.wantsDrive_of (by rw [drive]) run]
      exact free
    obtain ⟨full, docks⟩ := rented.empties (z := { x with take := none }) (by rw [bay, is]) wants (seat inputs)
    refine ⟨fun _ => ?_, full, docks⟩
    obtain ⟨_, _, _, docked⟩ := u.tryDock_sets b
    exact Told.closingCheck (Told.of_link told (congrArg State.link docked :))
  · obtain ⟨u, rented, drive, run, inputs, bay, stops, empties⟩ :=
      lateWithdrawal_rented (s.inputs.set b ((s.input b).setLevel .presence false)) claim known held
    rw [relatches relatching, fallen]
    cases running : s.runsAt b with
    | true =>
      obtain ⟨r, at', here⟩ : ∃ r, s.run = some r ∧ r.bay = b := by
        rw [runsAt_iff] at running
        exact Option.map_eq_some_iff.mp running
      have stopped := (State.requestStop_cases
        (u.updateBay b (fun r => { r with state := .reopening, followOn := some .release })) b).2 r (by exact run.trans at') here
        (moving r at' here)
      rw [stops running, stopped]
      obtain ⟨entry, others, protocol, tap, record, bays⟩ := ((rented.updateBay
        (fun r => { r with state := .reopening, followOn := some .release })).setRun (some { r with stop := true })).closingCheck
      refine ⟨_, rfl, entry, others, protocol, tap, record, bays, fun z which => ?_, fun r' _ is' _ => ?_⟩
      · rcases which with h | h
        · exact nomatch h.1
        · exact nomatch h.2.2.1
      · obtain rfl : r = r' := Option.some.inj (at'.symm.trans is')
        refine ⟨?_, by rw [State.closingCheck_run]; rfl, by rw [State.closingCheck_drive]; exact drive⟩
        rw [State.closingCheck_bay]
        refine (State.bay_updateBay u b b (fun r => { r with state := .reopening, followOn := some .release })).trans ?_
        rw [if_pos rfl, bay, is]
    | false =>
      have still : u.runsAt b = false := by
        unfold State.runsAt at running ⊢
        rw [run]
        exact running
      have wants : ((u.withdraw b).updateBay b (fun r => { r with state := .empty })).wantsDrive b = false :=
        State.withdraw_wants still
      rw [empties running]
      have emptied : Rented s b tok e true ((u.withdraw b).updateBay b (fun r => { r with state := .empty })) :=
        rented.withdraw.updateBay _
      obtain ⟨entry, others, protocol, tap, record, bays⟩ := emptied.tryDock.closingCheck
      refine ⟨_, rfl, entry, others, protocol, tap, record, bays, fun z which => ?_, fun r _ is' here => ?_⟩
      · obtain ⟨_, _, _, rfl⟩ := which.resolve_left fun h => nomatch h.1
        obtain ⟨full, docks⟩ := emptied.empties (z := { x with cause := none })
          (by rw [State.bay_updateBay, if_pos rfl, is]; exact congrArg (fun y : BayRecord => { y with state := .empty }) bay)
          wants (seat inputs)
        exact ⟨nofun, full, docks⟩
      · rw [(State.runsAt_of is').mpr here] at running
        cases running

end Sys2Proof.Safety
end

section
/-! SUPPORT. TagReads: how a tag read ends (R117, R118, R120, R131). -/

namespace Sys2Proof.Machine

open Sys2Proof.Safety

variable (y : State) (b : Bay)

/-- R118: what follows the end of a tag read, by the bay's state. -/
theorem State.endTagRead_states :
    ((y.bay b).state = .calibrating → y.endTagRead b = (tagIdle y b).enterDocked b) ∧
    ((y.bay b).state = .serviceOpen → y.endTagRead b =
      if (tagIdle y b).wantsDrive b = true then tagIdle y b else (tagIdle y b).enterDocked b) ∧
    ((y.bay b).state = .docking →
      ((y.bay b).failedDock = none → y.endTagRead b = ((tagIdle y b).handReturn b false).enterDocked b) ∧
      ∀ code, (y.bay b).failedDock = some code →
        y.endTagRead b = ((tagIdle y b).handReturn b true).faultBay b code (code == .driverFault)) := by
  unfold State.endTagRead
  dsimp only
  refine ⟨fun h => by rw [h]; rfl, fun h => by rw [h]; rfl, fun h => ?_⟩
  rw [h]
  exact ⟨fun sound => by rw [sound]; rfl, fun code failed => by rw [failed]; rfl⟩

/-- R118: the ways in which a tag read ends. -/
theorem State.endTagRead_ways : y.endTagRead b = tagIdle y b ∨ y.endTagRead b = (tagIdle y b).enterDocked b ∨
    (∃ late, y.endTagRead b = ((tagIdle y b).handReturn b late).enterDocked b) ∨
    ∃ late code raised, y.endTagRead b = ((tagIdle y b).handReturn b late).faultBay b code raised := by
  obtain ⟨calibrating, serves, docking⟩ := y.endTagRead_states b
  cases state : (y.bay b).state with
  | calibrating => exact .inr (.inl (calibrating state))
  | serviceOpen =>
    rw [serves state]
    split
    · exact .inl rfl
    · exact .inr (.inl rfl)
  | docking =>
    obtain ⟨sound, fails⟩ := docking state
    cases failed : (y.bay b).failedDock with
    | none => exact .inr (.inr (.inl ⟨_, sound failed⟩))
    | some code => exact .inr (.inr (.inr ⟨_, _, _, fails code failed⟩))
  | _ =>
    refine .inl ?_
    unfold State.endTagRead
    dsimp only
    rw [state]
    rfl

variable {y b}

theorem State.faultBay_bay (s : State) (b c : Bay) (code : FaultCode) (raised : Bool) :
    (s.faultBay b code raised).bay c = if c = b then (s.bay b).faulted code else s.bay c := by
  obtain ⟨_, _, _, e⟩ := s.faultBay_sets b code raised
  rw [e]
  exact State.bay_set s b c _

theorem State.handReturn_bay (s : State) (b c : Bay) (late : Bool) : (s.handReturn b late).bay c = s.bay c := by
  obtain ⟨_, _, _, e⟩ := s.handReturn_sets b late
  rw [e]
  rfl

/-- R118: the end of a tag read changes its own bay alone, and removes no attention record. -/
theorem State.endTagRead_rest (y : State) (b : Bay) :
    (∀ d, d ≠ b → (y.endTagRead b).bay d = y.bay d) ∧ (y.endTagRead b).table = y.table ∧ (y.endTagRead b).tap = y.tap ∧
      (y.endTagRead b).run = y.run ∧ ∀ p, p ∈ attentionPairs y → p ∈ attentionPairs (y.endTagRead b) := by
  obtain ⟨_, _, _, _, _, _, e⟩ := y.endTagRead_sets b
  have others (d : Bay) (other : d ≠ b) : (tagIdle y b).bay d = y.bay d := by
    rw [tagIdle, State.bay_updateBay, if_neg other]
  refine ⟨fun d other => ?_, by rw [e], by rw [e], by rw [e], fun p mem => ?_⟩
  · rcases y.endTagRead_ways b with h | h | ⟨late, h⟩ | ⟨late, code, raised, h⟩
    all_goals rw [h]
    · exact others d other
    · rw [State.enterDocked_bay, if_neg other, others d other]
    · rw [State.enterDocked_bay, if_neg other, State.handReturn_bay, others d other]
    · rw [State.faultBay_bay, if_neg other, State.handReturn_bay, others d other]
  · rcases y.endTagRead_ways b with h | h | ⟨late, h⟩ | ⟨late, code, raised, h⟩
    all_goals rw [h]
    · exact mem
    · exact mem
    · exact State.handOver_pairs (tagIdle y b) false _ p mem
    · exact (State.faultBay_pairs _ b code raised).1 p (State.handOver_pairs (tagIdle y b) false _ p mem)

end Sys2Proof.Machine

namespace Sys2Proof.Safety

open Sys2Proof.Machine

/-- R118: an attempt, the first read or the third unread, ends the tag read with the bike ID and class found. -/
theorem tagAttempt_over {s : State} {b : Bay} {n : Nat} {answer : Option (BikeId × BikeClass)} {x : BayRecord}
    (ends : (∃ (id : BikeId) (cls : BikeClass), answer = some (id, cls) ∧
        x = { s.bay b with bikeId := some id, bikeClass := some cls, tagRead := none, failedDock := none }) ∨
      answer = none ∧ n = 3 ∧ x = { s.bay b with bikeId := none, bikeClass := none, tagRead := none, failedDock := none }) :
    ∃ y z aq q, s.tagAttempt b n answer = y.endTagRead b ∧
      y = { s with bays := s.bays.set b z, aq := aq, rlc := { s.rlc with service := q } } ∧
      { z with tagRead := none, failedDock := none } = x ∧ z.state = (s.bay b).state ∧ z.failedDock = (s.bay b).failedDock ∧
      (answer = none → s.mode.working = true → s.masked (.bay b) = false →
        (Source.bay b, Code.tagUnread) ∈ attentionPairs y) := by
  rcases ends with ⟨id, cls, rfl, is⟩ | ⟨rfl, rfl, is⟩
  · exact ⟨s.updateBay b (fun r => { r with bikeId := some id, bikeClass := some cls }), _, s.aq, s.rlc.service, rfl, rfl,
      is.symm, rfl, rfl, nofun⟩
  · obtain ⟨aq, q, e⟩ := (s.updateBay b BayRecord.noBike).raise_sets (.bay b) .tagUnread
    have last : s.tagAttempt b 3 none = ((s.updateBay b BayRecord.noBike).raise (.bay b) .tagUnread).endTagRead b := by
      unfold State.tagAttempt
      exact if_neg (by decide)
    exact ⟨_, (s.bay b).noBike, aq, q, last, e, is.symm, rfl, rfl, fun _ working unmasked => State.raise_records _ _ _ working unmasked⟩

/-- R120: the RETURN of a tag read in DOCKING, and what becomes of the bay. -/
theorem endTagRead_docking {s y : State} {b : Bay} {z x : BayRecord} {aq : AttentionQueue} {q : List Queued}
    (is : y = { s with bays := s.bays.set b z, aq := aq, rlc := { s.rlc with service := q } })
    (idle : (tagIdle y b).bay b = x) (state : z.state = .docking) :
    Recorded (.returned b x.bikeId x.bikeClass z.failedDock.isSome) s (y.endTagRead b).store ∧
      (z.failedDock = none → (y.endTagRead b).bay b = { x with state := .docked }) ∧
      ∀ code : FaultCode, z.failedDock = some code → (y.endTagRead b).bay b = x.faulted code ∧
        Told (.bayLight b .fault) (y.endTagRead b) ∧ (code ≠ .driverFault → s.mode.working = true →
          s.masked (.bay b) = false → (Source.bay b, code.code) ∈ attentionPairs (y.endTagRead b)) := by
  have bay : y.bay b = z := by
    rw [is]
    exact (State.bay_set s b b z).trans (if_pos rfl)
  obtain ⟨_, _, docking⟩ := y.endTagRead_states b
  obtain ⟨sound, fails⟩ := docking (by rw [bay]; exact state)
  rw [bay] at sound fails
  have record (late : Bool) : Recorded (.returned b x.bikeId x.bikeClass late) s ((tagIdle y b).handReturn b late).store := by
    unfold State.handReturn
    rw [idle]
    exact State.handOver_recorded (x := tagIdle y b) _ (by rw [is]; rfl) (by rw [is]; rfl) (by rw [is]; rfl)
  cases failed : z.failedDock with
  | none =>
    rw [sound failed]
    refine ⟨record false, fun _ => ?_, nofun⟩
    rw [State.enterDocked_bay, if_pos rfl, State.handReturn_bay, idle]
  | some code =>
    obtain ⟨st, aq', q', handed⟩ := (tagIdle y b).handReturn_sets b true
    obtain ⟨_, _, _, faulted⟩ := ((tagIdle y b).handReturn b true).faultBay_sets b code (code == .driverFault)
    rw [fails code failed]
    refine ⟨?_, nofun, ?_⟩
    · rw [faulted]
      exact record true
    · rintro _ ⟨⟩
      refine ⟨?_, State.faultBay_told _ _ _ _, fun other working unmasked => ?_⟩
      · rw [State.faultBay_bay, if_pos rfl, State.handReturn_bay, idle]
      · refine (State.faultBay_pairs _ b code _).2 (beq_eq_false_iff_ne.mpr other) ?_ ?_
        · rw [handed, is]
          exact working
        · rw [handed, is]
          exact unmasked

/-- Settles O46: an attempt that ends the read (`tagAttempt_over`), and the bay's state (`State.endTagRead_states`). -/
theorem tagReadsEnd : Obligations.TagReadsEnd := by
  intro s b answer n x working reading ends
  obtain ⟨y, z, aq, q, e, is, over', state, failed, records⟩ := tagAttempt_over ends
  have idle : (tagIdle y b).bay b = x := by
    rw [tagIdle, State.bay_updateBay, if_pos rfl, is]
    refine (congrArg (fun r : BayRecord => { r with tagRead := none, failedDock := none }) ?_).trans over'
    exact (State.bay_set s b b z).trans (if_pos rfl)
  have bay : y.bay b = z := by
    rw [is]
    exact (State.bay_set s b b z).trans (if_pos rfl)
  obtain ⟨others, table, tap, run, kept⟩ := State.endTagRead_rest y b
  obtain ⟨calibrating, serves, _⟩ := y.endTagRead_states b
  rw [bay, state] at calibrating serves
  rw [exec_tagReadAttemptCompletion reading, e]
  have store : (tagIdle y b).store = s.store := by rw [is]; rfl
  refine ⟨_, rfl, fun d other => ?_, ?_, ?_, ?_, fun unread unmasked => ?_, fun h => ?_, fun h => ⟨?_, fun free => ?_, fun wants => ?_⟩,
    fun h => ?_⟩
  · rw [State.closingCheck_bay, others d other, is]
    exact (State.bay_set s b d z).trans (if_neg other)
  · rw [State.closingCheck_table, table, is]
  · rw [State.closingCheck_tap, tap, is]
  · rw [State.closingCheck_run, run, is]
  · rw [attentionPairs_of_aq (State.closingCheck_aq _)]
    exact kept _ (records unread working unmasked)
  · rw [State.closingCheck_bay, State.closingCheck_store, calibrating h, State.enterDocked_bay, if_pos rfl, idle,
      State.enterDocked_store]
    exact ⟨rfl, store⟩
  · rw [State.closingCheck_store, serves h]
    split
    · exact store
    · exact (State.enterDocked_store _ b).trans store
  · have still : (tagIdle y b).wantsDrive b = false := by rw [is]; exact free
    rw [State.closingCheck_bay, serves h, if_neg (by rw [still]; nofun), State.enterDocked_bay, if_pos rfl, idle]
  · have asks : (tagIdle y b).wantsDrive b = true := by rw [is]; exact wants
    rw [State.closingCheck_bay, State.closingCheck_drive, serves h, if_pos asks]
    exact ⟨idle, by rw [is]; rfl⟩
  · obtain ⟨record, docked, faulted⟩ := endTagRead_docking is idle (state.trans h)
    rw [failed] at record docked faulted
    rw [State.closingCheck_bay, State.closingCheck_store]
    have none' : x.tagRead = none ∧ x.failedDock = none := by
      rw [← over']
      exact ⟨rfl, rfl⟩
    refine ⟨record, docked, fun code is' => ?_⟩
    obtain ⟨bay', told, pairs⟩ := faulted code is'
    refine ⟨bay'.trans ?_, Told.closingCheck told, fun other unmasked => ?_⟩
    · unfold BayRecord.faulted
      rw [none'.1, none'.2]
    · rw [attentionPairs_of_aq (State.closingCheck_aq _)]
      exact pairs other working unmasked

end Sys2Proof.Safety
end

section
/-! SUPPORT. Boundaries: what the boundaries of a run do while it goes on, and its end in SUCCESS (R135 to R137, R140 to R143). -/

namespace Sys2Proof.Machine

open Sys2Proof.Safety

/-! ### Steps begun -/

variable {i : BayInputs} {r : Run} {st nx : Step}

theorem Run.enterStep_eq {n : Nat} (index : r.index = n) : r.enterStep = { r with index := n + 1, made := 0, edge := .seekLow } := by
  unfold Run.enterStep
  rw [index]

/-- R137: the anchor restarts the count of OUT bolt steps. -/
theorem Run.stepDone_eq (r : Run) {sensor : Sensor} {level : Bool} {limit : Nat} (mode : st.mode = .untilSees sensor level limit) :
    r.stepDone st = { r with outs := if sensor = .home ∧ level = true ∧ st.action = .inward 1 then 0 else r.outs } := by
  unfold Run.stepDone
  by_cases anchor : sensor = .home ∧ level = true ∧ st.action = .inward 1
  · rw [if_pos ((st.isAnchor_iff mode).mpr anchor), if_pos anchor]
  · rw [if_neg fun h => anchor ((st.isAnchor_iff mode).mp h), if_neg anchor]

/-- R136, R137: how a step begins. -/
theorem Run.begin_cases (i : BayInputs) (r : Run) (st : Step) (rest : List Step) (sensor : Sensor) (level : Bool) (limit : Nat) :
    (st.mode = .edge sensor limit → r.begin i (st :: rest) =
      .going (if i.level sensor = true then r.enterStep else { r.enterStep with edge := .seekHigh })) ∧
    (st.mode = .untilSees sensor level limit → r.begin i (st :: rest) =
      if i.level sensor = level then (r.enterStep.stepDone st).begin i rest else .going r.enterStep) ∧
    (st.mode = .stopWhen sensor level → st.action = .sense → r.begin i (st :: rest) =
      if i.level sensor = level then .ended r.enterStep .success else r.enterStep.begin i rest) := by
  rw [Run.begin]
  refine ⟨fun h => by rw [h], fun h => by rw [h], fun h action => ?_⟩
  rw [h]
  dsimp only
  rw [action]

/-! ### The step in progress -/

/-- R136: what the completion test of a step finds. -/
theorem Run.test_cases (i : BayInputs) (m : Run) (st : Step) (sensor : Sensor) (level : Bool) (limit : Nat) :
    (st.mode = .plain ∨ st.mode = .stopWhen sensor level → m.performed st = false → m.test i st = .notYet m) ∧
    (m.performed st = true → st.mode = .plain ∨ st.mode = .stopWhen sensor level ∧ i.level sensor ≠ level →
      m.test i st = .complete m) ∧
    (st.mode = .untilSees sensor level limit →
      (i.level sensor = level → m.test i st = .complete (m.stepDone st)) ∧
      (i.level sensor ≠ level → m.made < limit → m.test i st = .notYet m)) ∧
    (st.mode = .edge sensor limit →
      (m.edge = .seekHigh → i.level sensor = true → m.test i st = .complete { m with measured := some m.outs }) ∧
      (m.edge = .seekLow ∨ i.level sensor = false → m.made < limit → m.test i st =
        .notYet { m with edge := if i.level sensor = true then m.edge else .seekHigh })) := by
  unfold Run.test
  refine ⟨fun mode short => ?_, fun done mode => ?_, fun mode => ⟨fun sees => ?_, fun blind below => ?_⟩,
    fun mode => ⟨fun high sees => ?_, fun low below => ?_⟩⟩
  · rcases mode with h | h
    · rw [h]
      exact if_neg (by rw [short]; nofun)
    · rw [h]
      exact if_neg (by rw [short]; nofun)
  · rcases mode with h | ⟨h, blind⟩
    · rw [h]
      exact if_pos done
    · rw [h]
      exact (if_pos done).trans (if_neg blind)
  · rw [mode]
    exact if_pos sees
  · rw [mode]
    exact (if_neg blind).trans (if_neg (Nat.not_le.mpr below))
  · rw [mode]
    exact if_pos ⟨high, sees⟩
  · rw [mode]
    refine (if_neg fun h => ?_).trans ((if_neg (Nat.not_le.mpr below)).trans (congrArg StepTest.notYet ?_))
    · rcases low with low | low
      · exact nomatch low.symm.trans h.1
      · exact nomatch low.symm.trans h.2
    · by_cases sees : i.level sensor = true
      · rw [if_pos sees, if_pos sees]
      · rw [if_neg sees, if_neg sees]

/-- R142: what a boundary makes of the test, no stop asked for. -/
theorem Run.proceed_cases {m x : Run} (unstopped : x.stop = false) :
    (m.test i st = .notYet x → m.proceed i st = .going x) ∧
    (m.test i st = .complete x → x.steps[x.index]? = some nx → nx.mode = .plain → nx.action ≠ .sense →
      m.proceed i st = .going { x with index := x.index + 1, made := 0, edge := .seekLow }) := by
  unfold Run.proceed
  refine ⟨fun h => ?_, fun h next plain acts => ?_⟩
  · rw [h]
    exact if_neg (by rw [unstopped]; nofun)
  · obtain ⟨bound, at'⟩ := List.getElem?_eq_some_iff.mp next
    have left : x.left = nx :: x.steps.drop (x.index + 1) := by
      unfold Run.left
      rw [List.drop_eq_getElem_cons bound, at']
    rw [h]
    dsimp only
    rw [left]
    refine (if_neg (by nofun)).trans ((if_neg (by rw [unstopped]; nofun)).trans ?_)
    rw [Run.begin_acts _ _ _ _ (.inl plain) acts]
    rfl

/-! ### The end in SUCCESS -/

theorem State.over_self (s : State) (b : Bay) : s.over b (s.bay b) = { s with run := none } := by
  unfold State.over State.bay
  rw [PerBay.set_get]

end Sys2Proof.Machine

namespace Sys2Proof.Safety

open Sys2Proof.Machine

variable {s : State} {r : Run} {c : Instr}

theorem ending_success {result : RunResult} (h : endingOf result = .success) : result = .success := by
  cases result with
  | success => rfl
  | failLimit _ => cases h
  | failDriver _ => cases h
  | stopped _ => cases h

/-- R143, R146: the drive handed on stands at another bay. -/
theorem handsOn_away {t : State} (h : HandsOn s.drive.waiting t) (law : DriveLaw s) (runs : s.run = some r) :
    t.runsAt r.bay = false := by
  rw [← Bool.not_eq_true, runsAt_iff]
  intro here
  have waits := (DriveLaw.over law runs rfl).2
  rw [requestWaits_eq_false_iff] at waits
  obtain ⟨x, at', bay⟩ := Option.map_eq_some_iff.mp here
  obtain ⟨_, run⟩ := h
  rw [at'] at run
  cases queue : s.drive.waiting with
  | nil =>
    rw [queue] at run
    cases run
  | cons q rest =>
    rw [queue] at run
    have same : x.bay = q.bay := congrArg Prod.fst (Option.some.inj run)
    exact waits (by rw [queue, ← bay, same]; exact List.mem_cons_self ..)

/-- R122, R143: a PATROL run of a DOCKED bay that measured nothing ends in SUCCESS. -/
theorem succeeds_of_ends (ends : Ends s r c .success r.measured) (runs : s.run = some r) : Succeeds c r s := by
  intro patrol docked followOn unmeasured law
  obtain ⟨result, is, e⟩ := exec_ends_over ends runs
  have record : atEnd s r r.measured = s.bay r.bay := by
    unfold atEnd
    rw [if_pos unmeasured]
  have over' : (s.told r.bay .success).over r.bay (atEnd s r r.measured) = { s with run := none } := by
    rw [record]
    exact s.over_self r.bay
  have answer : ({ s with run := none } : State).takeResult r.bay r.run result = { s with run := none } := by
    rw [ending_success is]
    unfold State.takeResult
    rw [show (({ s with run := none } : State).bay r.bay).followOn = none from followOn]
    dsimp only
    rw [show (({ s with run := none } : State).bay r.bay).state = .docked from docked]
    exact if_pos patrol
  rw [over', answer] at e
  have hands : HandsOn s.drive.waiting _ := State.grant_handsOn (y := { s with run := none }) rfl
  obtain ⟨d, r', m, rest⟩ := State.grant_rest { s with run := none }
  exact ⟨_, e, by rw [rest], by rw [rest], handsOn_away hands law runs, hands.1⟩

/-! ### Boundaries -/

theorem exec_pulseEnd (runs : s.run = some r) (index : r.index = 0) (sound : (s.input r.bay).driverFault = false)
    (unstopped : r.stop = false) :
    exec .faultResetPulseEnd s = .next (s.progress (r.begin (s.input r.bay) r.steps)).closingCheck := by
  have left : r.left = r.steps := by
    unfold Run.left
    rw [index]
    rfl
  change Host.Outcome.next _ = _
  rw [runs]
  dsimp only
  rw [if_pos index, State.pulseEnd, if_neg (by rw [sound]; nofun), if_neg (by rw [unstopped]; nofun), left]

/-- R136, R140: the run as the fault-reset pulse ends. -/
theorem pulseEnds (runs : s.run = some r) (sound : (s.input r.bay).driverFault = false) (unstopped : r.stop = false)
    {st : Step} (nx : Step) (sensor : Sensor) (level : Bool) (limit : Nat) (index : r.index = 0) (first : r.steps.head? = some st) :
    (st.mode = .plain ∨ st.mode = .stopWhen sensor level → st.action ≠ .sense →
      exec .faultResetPulseEnd s = .next (goingOn s { r with index := 1, made := 0, edge := .seekLow })) ∧
    (st.mode = .edge sensor limit →
      exec .faultResetPulseEnd s = .next (goingOn s { r with
        index := 1, made := 0, edge := if (s.input r.bay).level sensor = true then .seekLow else .seekHigh })) ∧
    (st.mode = .untilSees sensor level limit → (s.input r.bay).level sensor ≠ level →
      exec .faultResetPulseEnd s = .next (goingOn s { r with index := 1, made := 0, edge := .seekLow })) ∧
    (st.mode = .untilSees sensor level limit → (s.input r.bay).level sensor = level → r.steps[1]? = some nx →
      nx.mode = .plain → nx.action ≠ .sense →
      exec .faultResetPulseEnd s = .next (goingOn s { r with
        index := 2, made := 0, edge := .seekLow
        outs := if sensor = .home ∧ level = true ∧ st.action = .inward 1 then 0 else r.outs })) ∧
    (st.mode = .stopWhen sensor level → st.action = .sense →
      ((s.input r.bay).level sensor = level → Succeeds .faultResetPulseEnd r s) ∧
      ((s.input r.bay).level sensor ≠ level → r.steps[1]? = some nx → nx.mode = .plain → nx.action ≠ .sense →
        exec .faultResetPulseEnd s = .next (goingOn s { r with index := 2, made := 0, edge := .seekLow }))) := by
  obtain ⟨rest, steps⟩ : ∃ rest, r.steps = st :: rest := List.head?_eq_some_iff.mp first
  have second (next : r.steps[1]? = some nx) : ∃ rest', rest = nx :: rest' := by
    rw [steps, List.getElem?_cons_succ, ← List.head?_eq_getElem?] at next
    exact List.head?_eq_some_iff.mp next
  have going {x : Run} (h : r.begin (s.input r.bay) (st :: rest) = .going x) :
      exec .faultResetPulseEnd s = .next (goingOn s x) := by
    rw [exec_pulseEnd runs index sound unstopped, steps, h]
    rfl
  have entered := Run.enterStep_eq index
  obtain ⟨edge, until', sense⟩ := Run.begin_cases (s.input r.bay) r st rest sensor level limit
  refine ⟨fun mode acts => ?_, fun mode => ?_, fun mode blind => ?_, fun mode sees next plain acts => ?_,
    fun mode action => ⟨fun sees => ?_, fun blind next plain acts => ?_⟩⟩
  · rw [going (Run.begin_acts _ _ _ _ (mode.imp_right fun h => ⟨_, _, h⟩) acts), entered]
  · rw [going (edge mode), entered]
    split <;> rfl
  · rw [going ((until' mode).trans (if_neg blind)), entered]
  · obtain ⟨rest', is⟩ := second next
    have acted : (r.enterStep.stepDone st).begin (s.input r.bay) rest = .going (r.enterStep.stepDone st).enterStep := by
      rw [is]
      exact Run.begin_acts _ _ _ _ (.inl plain) acts
    rw [going ((until' mode).trans ((if_pos sees).trans acted)), Run.stepDone_eq _ mode, entered]
    rfl
  · refine succeeds_of_ends (Ends.pulseFinished index sound unstopped ?_) runs
    rw [steps]
    exact .inr ⟨sensor, level, mode, action, .inl sees⟩
  · obtain ⟨rest', is⟩ := second next
    have acted : r.enterStep.begin (s.input r.bay) rest = .going r.enterStep.enterStep := by
      rw [is]
      exact Run.begin_acts _ _ _ _ (.inl plain) acts
    rw [going ((sense mode action).trans ((if_neg blind).trans acted)), entered]
    rfl

/-- R135, R140, R142: the boundary of a step, the run as it has moved, and the bolt steps the step makes. -/
structure Boundary (c : Instr) (r m : Run) (st : Step) (count : Nat) : Prop where
  atStep : AtStep c r st
  moved : r.moved st = m
  performed : m.performed st = true ↔ count ≤ m.made

theorem boundary_of {c : Instr} {r m : Run} {st : Step} {n count : Nat} (inside : 0 < r.index)
    (step : r.steps[r.index - 1]? = some st)
    (kind : c = .boltStepEnd ∧ st.action = .out n ∧ m = { r with made := r.made + 1, outs := r.outs + 1 } ∧
        count = (if st.fromClearPoint = true then r.clearPoint.getD n else n) ∨
      c = .boltStepEnd ∧ st.action = .inward n ∧ m = { r with made := r.made + 1 } ∧
        count = (if st.fromClearPoint = true then r.clearPoint.getD n else n) ∨
      c = .senseReading ∧ st.action = .sense ∧ m = { r with made := r.made + 1 } ∧ count = 0 ∨
      c = .dwellEnd ∧ st.action = .dwell n ∧ m = r ∧ count = 0) : Boundary c r m st count := by
  rcases kind with ⟨rfl, action, rfl, rfl⟩ | ⟨rfl, action, rfl, rfl⟩ | ⟨rfl, action, rfl, rfl⟩ | ⟨rfl, action, rfl, rfl⟩
  · refine ⟨⟨inside, step, .inl ⟨rfl, n, .inl action⟩⟩, by unfold Run.moved; rw [action], ?_⟩
    unfold Run.performed
    rw [action]
    exact decide_eq_true_iff
  · refine ⟨⟨inside, step, .inl ⟨rfl, n, .inr action⟩⟩, by unfold Run.moved; rw [action], ?_⟩
    unfold Run.performed
    rw [action]
    exact decide_eq_true_iff
  · refine ⟨⟨inside, step, .inr (.inr ⟨rfl, action⟩)⟩, by unfold Run.moved; rw [action], ?_⟩
    unfold Run.performed
    rw [action]
    exact ⟨fun _ => Nat.zero_le _, fun _ => rfl⟩
  · refine ⟨⟨inside, step, .inr (.inl ⟨rfl, n, action⟩)⟩, by unfold Run.moved; rw [action], ?_⟩
    unfold Run.performed
    rw [action]
    exact ⟨fun _ => Nat.zero_le _, fun _ => rfl⟩

/-- Settles O47: the pulse's end by `pulseEnds`; a step's end by its test (`Run.test_cases`) and what follows it
(`Run.proceed_cases`). -/
theorem boundariesOfARun : Obligations.BoundariesOfARun := by
  intro s r st nx n sensor level limit runs sound unstopped
  refine ⟨fun index first => pulseEnds runs sound unstopped nx sensor level limit index first,
    fun inside step c m count kind => ?_⟩
  obtain ⟨atStep, moved, performed⟩ := boundary_of inside step kind
  obtain ⟨_, _, measured, steps, index, stop, edge, _⟩ := r.moved_keeps st
  rw [moved] at measured steps index stop edge
  have unasked : m.stop = false := stop.trans unstopped
  have going {x : Run} (h : m.proceed (s.input r.bay) st = .going x) : exec c s = .next (goingOn s x) := by
    rw [exec_atStep atStep runs, State.stepBoundary_of sound, moved, h]
    rfl
  obtain ⟨short, done, until', edges⟩ := Run.test_cases (s.input r.bay) m st sensor level limit
  refine ⟨fun mode below => ?_, fun mode blind below => ?_, fun mode low below => ?_,
    fun next plain acts => ⟨fun full mode => ?_, fun mode sees => ?_, fun mode high sees => ?_⟩, fun full how => ?_⟩
  · have unfinished : m.performed st = false := by
      rw [← Bool.not_eq_true, performed]
      exact Nat.not_le.mpr below
    exact going ((Run.proceed_cases (nx := nx) unasked).1 (short mode unfinished))
  · exact going ((Run.proceed_cases (nx := nx) unasked).1 ((until' mode).2 blind below))
  · rw [going ((Run.proceed_cases (nx := nx) (x := { m with
      edge := if (s.input r.bay).level sensor = true then m.edge else .seekHigh }) unasked).1
      ((edges mode).2 (by rw [edge]; exact low) below)), edge]
  · rw [going ((Run.proceed_cases unasked).2 (done (performed.mpr full) mode) (by rw [steps, index]; exact next) plain acts), index]
  · rw [Run.stepDone_eq _ mode] at until'
    rw [going ((Run.proceed_cases (x := { m with outs := if sensor = .home ∧ level = true ∧ st.action = .inward 1 then 0 else m.outs })
      unasked).2 ((until' mode).1 sees) (by change m.steps[m.index]? = _; rw [steps, index]; exact next) plain acts)]
    dsimp only
    rw [index]
  · rw [going ((Run.proceed_cases (x := { m with measured := some m.outs }) unasked).2
      ((edges mode).1 (edge.trans high) sees) (by change m.steps[m.index]? = _; rw [steps, index]; exact next) plain acts)]
    dsimp only
    rw [index]
  · have reached : required r st ≤ r.made + 1 := by
      rw [← r.performed_iff st, moved]
      exact performed.mpr full
    rcases how with ⟨mode, sees⟩ | ⟨last, mode⟩
    · exact succeeds_of_ends (Ends.holds c st atStep sound ⟨sensor, level, mode, reached, sees⟩) runs
    · have kept : measuredAfter r st = r.measured := by
        unfold measuredAfter
        rcases mode with h | ⟨h, _⟩ <;> rw [h]
      refine succeeds_of_ends (kept ▸ Ends.finished c st atStep sound ?_ (.inl (Nat.le_of_eq last.symm)) ?_) runs
      · unfold StepCompletes
        rcases mode with h | ⟨h, sees⟩
        · rw [h]
          exact reached
        · rw [h]
          exact sees
      · rw [List.drop_eq_nil_of_le (Nat.le_of_eq last.symm)]
        trivial

end Sys2Proof.Safety
end

section
/-! SUPPORT. RunsOver: the ends of runs in SUCCESS and in FAIL, releases and relatches apart (R114 to R122, R128 to R132, R143). -/

namespace Sys2Proof.Machine

open Sys2Proof.Safety

/-! ### The result a bay takes -/

/-- R114: a result without a follow-on is answered by the bay's state. -/
theorem State.takeResult_states {y : State} {b : Bay} (run : RunFor) (result : RunResult) (none' : (y.bay b).followOn = none) :
    ((y.bay b).state = .calibrating → y.takeResult b run result = y.calibrationEnd b run result) ∧
    ((y.bay b).state = .docking → y.takeResult b run result = y.dockingEnd b result) ∧
    ((y.bay b).state = .docked → run = .role .patrol → y.takeResult b run result = y.patrolEnd b result) ∧
    ((y.bay b).state = .releasing → y.takeResult b run result = y.releaseEnd b result) ∧
    ((y.bay b).state = .relatching → y.takeResult b run result = y.relatchEnd b result) ∧
    ((y.bay b).state = .reopening → y.takeResult b run result = y.reopeningEnd b result) ∧
    ((y.bay b).state = .serviceOpen → y.takeResult b run result = y.serviceEnd b run result) := by
  unfold State.takeResult
  rw [none']
  refine ⟨fun h => ?_, fun h => ?_, fun h patrol => ?_, fun h => ?_, fun h => ?_, fun h => ?_, fun h => ?_⟩
  case refine_3 =>
    rw [h]
    exact if_pos patrol
  all_goals rw [h]

/-- R114: a follow-on is asked for whatever the result. -/
theorem State.takeResult_followOn {y : State} {b : Bay} {f : FollowOn} (run : RunFor) (result : RunResult)
    (named : (y.bay b).followOn = some f) :
    y.takeResult b run result = (y.updateBay b (fun x => { x with followOn := none })).requestRun b
      (.role (if f = .home then .home else .release)) := by
  unfold State.takeResult
  rw [named]
  cases f <;> rfl

/-! ### The bay whose run is over -/

variable {s base : State} {b : Bay} {x : BayRecord}

/-- R145: a request of the bay whose run is over joins the list's tail. -/
theorem State.requestRun_over (run : RunFor) (held : s.drive.holder = some b) (waits : s.requestWaits b = false) :
    (s.over b x).requestRun b run =
      { (s.over b x) with drive := { s.drive with waiting := s.drive.waiting ++ [⟨b, run⟩] } } :=
  State.requestRun_held (y := s.over b x) rfl held waits

theorem State.beginTagRead_over : (s.over b x).beginTagRead b = s.over b { x with tagRead := some 1 } :=
  s.over_update b x _

theorem State.input_over : (s.over b x).input b = s.input b := rfl

theorem endingOf_cases {result : RunResult} {e : Ending} (is : endingOf result = e) :
    (e = .success → result = .success) ∧ (e = .stopped → ∃ n, result = .stopped n) ∧
    (e = .limit ∨ e = .driver → result.byDriver = decide (e = .driver) ∧
      result.fault = (if e = .driver then .driverFault else .latchFail) ∧
      ((∃ n, result = .failLimit n) ∨ ∃ n, result = .failDriver n)) := by
  subst is
  refine ⟨fun h => ?_, fun h => ?_, fun h => ?_⟩
  · cases result with
    | success => rfl
    | _ => cases h
  · cases result with
    | stopped n => exact ⟨n, rfl⟩
    | _ => cases h
  · cases result with
    | failLimit n => exact ⟨rfl, rfl, .inl ⟨n, rfl⟩⟩
    | failDriver n => exact ⟨rfl, rfl, .inr ⟨n, rfl⟩⟩
    | success | stopped n => exact h.elim nofun nofun

/-- R116, R117, R120, R122, R124, R127, R128, R130, R131: the answers to a failed run. -/
theorem State.failed_answers (y : State) (b : Bay) (run : RunFor) {result : RunResult}
    (kinds : (∃ n, result = .failLimit n) ∨ ∃ n, result = .failDriver n) :
    y.calibrationEnd b run result = (if run = .opening then y.failRun b result else y.failHome b result) ∧
    y.dockingEnd b result = (if ((y.input b).presence && (y.input b).seat) = true then
      (y.updateBay b (fun x => { x with failedDock := some result.fault })).beginTagRead b
      else y.failDocking b result.fault) ∧
    y.patrolEnd b result = y.faultBay b .latchFail false ∧ y.releaseEnd b result = y.failRelease b result ∧
    y.relatchEnd b result = (y.lapseBay b).failRun b result ∧ y.reopeningEnd b result = y.failRun b result ∧
    y.serviceEnd b run result = y.failRun b result := by
  rcases kinds with ⟨n, rfl⟩ | ⟨n, rfl⟩
  · exact ⟨rfl, rfl, rfl, rfl, rfl, rfl, rfl⟩
  · exact ⟨rfl, rfl, rfl, rfl, rfl, rfl, rfl⟩

/-- R120: the RETURN of a failed docking is handed over before the bay is FAULTED. -/
theorem State.failDocking_over (s : State) (b : Bay) (x : BayRecord) (code : FaultCode) :
    ∃ st aq q, (s.over b x).failDocking b code =
        (({ s with store := st, aq := aq, rlc := { s.rlc with service := q } } : State).over b x).faultBay b code
          (code == .driverFault) ∧
      Recorded (.returned b x.bikeId x.bikeClass true) s st ∧ ∀ p, p ∈ attentionPairs s →
        p ∈ attentionPairs ({ s with store := st, aq := aq, rlc := { s.rlc with service := q } } : State) := by
  obtain ⟨st, aq, q, e⟩ := (s.over b x).handReturn_sets b true
  have record : Recorded (.returned b x.bikeId x.bikeClass true) s ((s.over b x).handReturn b true).store := by
    unfold State.handReturn
    rw [State.over_bay, if_pos rfl]
    exact State.handOver_recorded (s := s) (x := s.over b x) _ rfl rfl rfl
  have pairs (p : Source × Code) (h : p ∈ attentionPairs s) : p ∈ attentionPairs ((s.over b x).handReturn b true) :=
    State.handOver_pairs (s.over b x) false _ p h
  rw [e] at record pairs
  exact ⟨st, aq, q, by rw [State.failDocking, e]; rfl, record, pairs⟩

/-- R141: the driver fault raised at a driver failure. -/
theorem State.told_records {e : Ending} (driver : e = .driver) (working : s.mode.working = true)
    (unmasked : s.masked (.bay b) = false) : (Source.bay b, Code.driverFault) ∈ attentionPairs (s.told b e) := by
  unfold State.told
  rw [if_pos driver]
  exact s.raise_records _ _ working unmasked

end Sys2Proof.Machine

namespace Sys2Proof.Safety

open Sys2Proof.Machine

variable {s base : State} {b : Bay} {x : BayRecord}

/-- What the next grant leaves of the post, the drive and the mode apart. -/
theorem granted_keeps (y : State) : (∀ d, y.freeDrive.grant.closingCheck.bay d = y.bay d) ∧
    y.freeDrive.grant.closingCheck.table = y.table ∧ y.freeDrive.grant.closingCheck.ce = y.ce ∧
    y.freeDrive.grant.closingCheck.tap = y.tap ∧ y.freeDrive.grant.closingCheck.store = y.store ∧
    y.freeDrive.grant.closingCheck.rlc = y.rlc ∧ y.freeDrive.grant.closingCheck.link = y.link ∧
    y.freeDrive.grant.closingCheck.aq = y.aq := by
  obtain ⟨d, r, m, e⟩ := y.grant_rest
  rw [e]
  exact ⟨fun _ => rfl, rfl, rfl, rfl, rfl, rfl, rfl, rfl⟩

/-- R132, R143: the bay whose run is over becomes FAULTED, and the drive goes on. -/
structure FaultedOver (s base t : State) (b : Bay) (code : FaultCode) (x : BayRecord) : Prop where
  faulted : Faulted b code x s t
  hands : HandsOn s.drive.waiting t
  others : ∀ d, d ≠ b → t.bay d = base.bay d
  table : t.table = base.table
  ce : t.ce = base.ce
  tap : t.tap = base.tap
  store : t.store = base.store
  protocol : t.rlc.protocol = base.rlc.protocol
  pairs : ∀ p, p ∈ attentionPairs base → p ∈ attentionPairs t

theorem faultedOver (code : FaultCode) (raised : Bool) (mode : base.mode = s.mode) (image : base.image = s.image)
    (drive : base.drive = s.drive) (waits : s.requestWaits b = false)
    (told : raised = true → s.mode.working = true → s.masked (.bay b) = false →
      (Source.bay b, code.code) ∈ attentionPairs base) :
    FaultedOver s base ((base.over b x).faultBay b code raised).freeDrive.grant.closingCheck b code x := by
  obtain ⟨l, aq, q, e⟩ := (base.over b x).faultBay_sets b code raised
  have faulted := State.faultBay_faulted (x := x) mode image told
  obtain ⟨bays, table, ce, tap, store, rlc, link, attention⟩ := granted_keeps ((base.over b x).faultBay b code raised)
  have waiting : ((base.over b x).faultBay b code raised).drive.waiting = s.drive.waiting := by
    rw [e, ← State.withdraw_none waits, ← drive]
    rfl
  have hands := State.grant_handsOn (y := (base.over b x).faultBay b code raised) (by rw [e]; rfl)
  rw [waiting] at hands
  refine ⟨faulted_keeps faulted (bays b) (fun h => Told.of_link h link) (fun p h => by rw [attentionPairs_of_aq attention]; exact h),
    hands, fun d other => ?_, table.trans ?_, ce.trans ?_, tap.trans ?_, store.trans ?_, ?_, fun p h => ?_⟩
  · rw [bays, State.faultBay_bay, if_neg other, State.over_bay, if_neg other]
  · rw [e]; rfl
  · rw [e]; rfl
  · rw [e]; rfl
  · rw [e]; rfl
  · rw [rlc, e]; rfl
  · rw [attentionPairs_of_aq attention]
    exact ((base.over b x).faultBay_pairs b code raised).1 p h

theorem FaultedOver.onlyBay {t : State} {code : FaultCode} (h : FaultedOver s base t b code x)
    (is : ∃ aq q, base = { s with aq := aq, rlc := { s.rlc with service := q } }) : OnlyBay b s t := by
  obtain ⟨aq, q, rfl⟩ := is
  exact ⟨h.others, h.table, h.ce, h.tap, h.store, h.protocol⟩

/-! ### SUCCESS -/

/-- Settles O48: what the bay's answer comes to in each state, `leaves_of` and `faultedOver` for what the drive does then. -/
theorem runsThatSucceed : Obligations.RunsThatSucceed := by
  intro s r c m b x waiting runs ends law here none' is queue
  subst here is queue
  obtain ⟨result, ending, e⟩ := exec_ends_over ends runs
  obtain ⟨held, waits⟩ := DriveLaw.over law runs (t := s) rfl
  rw [ending_success ending] at e
  have e : exec c s = .next ((s.over r.bay (atEnd s r m)).takeResult r.bay r.run .success).freeDrive.grant.closingCheck := e
  have record : (s.over r.bay (atEnd s r m)).bay r.bay = atEnd s r m := by rw [State.over_bay, if_pos rfl]
  obtain ⟨calibrating, docking, docked, _, _, reopening, serves⟩ := State.takeResult_states
    (y := s.over r.bay (atEnd s r m)) r.run .success (by rw [record]; exact none')
  rw [record] at calibrating docking docked reopening serves
  have leaves {after : BayRecord} {w : List Request} (h : (s.over r.bay (atEnd s r m)).takeResult r.bay r.run .success =
      { (s.over r.bay after) with drive := { s.drive with waiting := w } }) : Leaves c s r.bay after w :=
    leaves_of e ⟨s.aq, s.rlc.service, s.link, h⟩
  have empties (h : (s.over r.bay (atEnd s r m)).takeResult r.bay r.run .success =
      (s.over r.bay (atEnd s r m)).enterEmpty r.bay) :
      ((s.input r.bay).seat = false ∨ 2 ≤ (s.pendingOf r.bay).length →
        Leaves c s r.bay { atEnd s r m with state := .empty } s.drive.waiting) ∧
      ((s.input r.bay).seat = true → (s.pendingOf r.bay).length < 2 →
        Leaves c s r.bay { atEnd s r m with state := .docking } (s.drive.waiting ++ [⟨r.bay, .role .relatch⟩])) := by
    rw [s.enterEmpty_over r.bay (atEnd s r m) held waits] at h
    refine ⟨fun stays => leaves (h.trans (if_neg fun k => ?_)), fun seat room => leaves (h.trans (if_pos ⟨seat, room⟩))⟩
    rcases stays with clear | full
    · rw [clear] at k
      exact nomatch k.1
    · exact absurd k.2 (Nat.not_lt.mpr full)
  have seated (h : (s.over r.bay (atEnd s r m)).takeResult r.bay r.run .success =
      if ((s.input r.bay).presence && (s.input r.bay).seat) = true then (s.over r.bay (atEnd s r m)).beginTagRead r.bay
      else (s.over r.bay (atEnd s r m)).calibrate r.bay) :
      ((s.input r.bay).presence = true ∧ (s.input r.bay).seat = true →
        Leaves c s r.bay { atEnd s r m with tagRead := some 1 } s.drive.waiting) ∧
      (¬((s.input r.bay).presence = true ∧ (s.input r.bay).seat = true) →
        Leaves c s r.bay (calibratingFrom (atEnd s r m)) (s.drive.waiting ++ [⟨r.bay, .role .home⟩])) := by
    rw [s.calibrate_over r.bay (atEnd s r m) held waits, State.beginTagRead_over] at h
    refine ⟨fun both => leaves (h.trans (if_pos (Bool.and_eq_true_iff.mpr both))), fun missing =>
      leaves (h.trans (if_neg fun k => missing (Bool.and_eq_true_iff.mp k)))⟩
  have homed (state : (s.bay r.bay).state = .calibrating) (home : r.run = .role .home) :
      (s.over r.bay (atEnd s r m)).takeResult r.bay r.run .success = (s.over r.bay (atEnd s r m)).homed r.bay :=
    (calibrating state).trans (if_neg (by rw [home]; nofun))
  unfold State.homed at homed
  rw [State.input_over] at homed
  refine ⟨fun state home => ⟨fun present seat => ?reads, fun present clear => ?fails, fun gone => ?opens⟩,
    fun how => ?empties, fun how => ?seated, fun how => ?stays⟩
  case reads => exact leaves ((homed state home).trans ((if_pos present).trans ((if_pos seat).trans State.beginTagRead_over)))
  case fails =>
    rw [(homed state home).trans ((if_pos present).trans (if_neg (by rw [clear]; nofun)))] at e
    have over' := faultedOver (s := s) (base := s) (x := atEnd s r m) .latchFail false rfl rfl rfl waits nofun
    exact ⟨_, e, over'.faulted, over'.hands, over'.onlyBay ⟨s.aq, s.rlc.service, rfl⟩⟩
  case opens =>
    exact leaves ((homed state home).trans ((if_neg (by rw [gone]; nofun)).trans (State.requestRun_over _ held waits)))
  case empties =>
    refine empties ?_
    rcases how with ⟨state, opening⟩ | state
    · exact (calibrating state).trans (if_pos opening)
    · exact reopening state
  case seated =>
    refine seated ?_
    rcases how with state | ⟨state, close⟩
    · exact docking state
    · exact (serves state).trans (if_pos close)
  case stays =>
    refine leaves ?_
    rcases how with ⟨state, patrol⟩ | ⟨state, opens⟩
    · exact docked state patrol
    · exact (serves state).trans (if_neg (by rw [opens]; nofun))

/-! ### FAIL -/

/-- Settles O49: each state's answer faults the bay (`faultedOver`), or begins the tag read of a failed docking. -/
theorem runsThatFail : Obligations.RunsThatFail := by
  intro s r c e m b x fault runs ends fails law here none' is names
  subst here is names
  obtain ⟨result, ending, exec'⟩ := exec_ends_over ends runs
  obtain ⟨held, waits⟩ := DriveLaw.over law runs (t := s) rfl
  obtain ⟨_, _, failed⟩ := endingOf_cases ending
  obtain ⟨byDriver, code', kinds⟩ := failed fails
  obtain ⟨aq, q, told⟩ := s.told_sets r.bay e
  have recorded := State.told_records (s := s) (b := r.bay) (e := e)
  have record : ((s.told r.bay e).over r.bay (atEnd s r m)).bay r.bay = atEnd s r m := by rw [State.over_bay, if_pos rfl]
  obtain ⟨calibrating, docking, docked, _, _, reopening, serves⟩ := State.takeResult_states
    (y := (s.told r.bay e).over r.bay (atEnd s r m)) r.run result (by rw [record]; exact none')
  rw [record] at calibrating docking docked reopening serves
  generalize s.told r.bay e = base at *
  have same : base.mode = s.mode ∧ base.image = s.image ∧ base.drive = s.drive := by rw [told]; exact ⟨rfl, rfl, rfl⟩
  obtain ⟨failsCalibration, failsDocking, failsPatrol, _, _, failsReopening, failsService⟩ :=
    State.failed_answers (base.over r.bay (atEnd s r m)) r.bay r.run kinds
  have raised {code : FaultCode} (flag : Bool) (only : flag = true → e = .driver ∧ code = .driverFault) : flag = true →
      s.mode.working = true → s.masked (.bay r.bay) = false → (Source.bay r.bay, code.code) ∈ attentionPairs base := by
    intro on working unmasked
    rw [(only on).2]
    exact recorded (only on).1 working unmasked
  have faultedBy {code : FaultCode} (flag : Bool) (only : flag = true → e = .driver ∧ code = .driverFault)
      (h : (base.over r.bay (atEnd s r m)).takeResult r.bay r.run result =
        (base.over r.bay (atEnd s r m)).faultBay r.bay code flag) :
      ∃ t, exec c s = .next t ∧ Faulted r.bay code (atEnd s r m) s t ∧ HandsOn s.drive.waiting t ∧ OnlyBay r.bay s t ∧
        (e = .driver → s.mode.working = true → s.masked (.bay r.bay) = false →
          (Source.bay r.bay, Code.driverFault) ∈ attentionPairs t) := by
    have over' := faultedOver (x := atEnd s r m) code flag same.1 same.2.1 same.2.2 waits (raised flag only)
    rw [h] at exec'
    exact ⟨_, exec', over'.faulted, over'.hands, over'.onlyBay ⟨aq, q, told⟩,
      fun driver working unmasked => over'.pairs _ (recorded driver working unmasked)⟩
  have driven {other : FaultCode} : result.byDriver = true →
      e = .driver ∧ (if e = .driver then FaultCode.driverFault else other) = .driverFault := by
    rw [byDriver, decide_eq_true_iff]
    exact fun h => ⟨h, if_pos h⟩
  have runFails : (base.over r.bay (atEnd s r m)).failRun r.bay result =
      (base.over r.bay (atEnd s r m)).faultBay r.bay (if e = .driver then .driverFault else .latchFail) result.byDriver := by
    rw [State.failRun, code']
  refine ⟨fun code which => ?faults, fun state => ⟨fun seated => ?reads, fun missing => ?returns⟩⟩
  case faults =>
    rcases which with ⟨state, home, rfl⟩ | ⟨state, patrol, rfl⟩ | ⟨states, rfl⟩
    · refine faultedBy result.byDriver driven ((calibrating state).trans (failsCalibration.trans
        ((if_neg (by rw [home]; nofun)).trans ?_)))
      rw [State.failHome, byDriver]
      simp only [decide_eq_true_eq]
    · exact faultedBy false nofun ((docked state patrol).trans failsPatrol)
    · refine faultedBy result.byDriver driven (Eq.trans ?_ runFails)
      rcases states with ⟨state, opening⟩ | state | state
      · exact (calibrating state).trans (failsCalibration.trans (if_pos opening))
      · exact (reopening state).trans failsReopening
      · exact (serves state).trans failsService
  case reads =>
    have input : (base.over r.bay (atEnd s r m)).input r.bay = s.input r.bay := by rw [told]; rfl
    have answer : (base.over r.bay (atEnd s r m)).takeResult r.bay r.run result = base.over r.bay { atEnd s r m with
        failedDock := some (if e = .driver then .driverFault else .latchFail), tagRead := some 1 } := by
      refine (docking state).trans (failsDocking.trans ((if_pos ?_).trans ?_))
      · rw [input]
        exact Bool.and_eq_true_iff.mpr seated
      · rw [State.over_update, State.beginTagRead_over, code']
    rw [answer] at exec'
    refine ⟨leaves_of exec' ⟨aq, q, s.link, by rw [told]; rfl⟩, fun driver working unmasked => ⟨_, exec', ?_⟩⟩
    obtain ⟨_, _, _, _, _, _, _, attention⟩ := granted_keeps (base.over r.bay { atEnd s r m with
      failedDock := some (if e = .driver then .driverFault else .latchFail), tagRead := some 1 })
    rw [attentionPairs_of_aq attention]
    exact recorded driver working unmasked
  case returns =>
    have input : (base.over r.bay (atEnd s r m)).input r.bay = s.input r.bay := by rw [told]; rfl
    obtain ⟨st, aq', q', docks, record, kept⟩ := base.failDocking_over r.bay (atEnd s r m)
      (if e = .driver then .driverFault else .latchFail)
    have answer := (docking state).trans (failsDocking.trans (if_neg (by
      rw [input]
      exact fun h => missing (Bool.and_eq_true_iff.mp h))))
    rw [code', docks] at answer
    rw [answer] at exec'
    have over' := faultedOver (s := s) (b := r.bay) (x := atEnd s r m)
      (base := { base with store := st, aq := aq', rlc := { base.rlc with service := q' } })
      (if e = .driver then .driverFault else .latchFail)
      ((if e = .driver then FaultCode.driverFault else .latchFail) == .driverFault) same.1 same.2.1 same.2.2 waits
      fun on working unmasked => by
        have driver : e = .driver := by
          refine Classical.byContradiction fun other => ?_
          rw [if_neg other] at on
          cases on
        rw [if_pos driver]
        exact kept _ (recorded driver working unmasked)
    refine ⟨_, exec', over'.faulted, over'.hands, ?_, fun d other => (over'.others d other).trans ?_, over'.table.trans ?_,
      over'.tap.trans ?_⟩
    · rw [over'.store]
      rw [told] at record
      exact record
    · rw [told]; rfl
    · rw [told]
    · rw [told]

end Sys2Proof.Safety
end

section
/-! SUPPORT. RelatchEnds: the end of the RELATCH run of a RELATCHING bay (R65, R127, R132, R143). -/

namespace Sys2Proof.Machine

open Sys2Proof.Safety

/-- R65: the reason of a LAPSE after a relatch is the relatch's cause. -/
theorem RelatchCause.reason_eq (cause : RelatchCause) :
    cause.reason = if cause = .notTaken then .notTaken else .relatchAction := by
  cases cause <;> rfl

/-- What the lapse of a held claim at bay `b` leaves of the post `base` (R65, R127, R152). -/
structure Lapsed (base u : State) (b : Bay) (x : BayRecord) (tok : TokenId) (cause : RelatchCause) : Prop where
  sets : ∃ tb st aq p q a, u = { base with
    table := tb, store := st, aq := aq, rlc := { base.rlc with protocol := p, service := q, attempt := a } }
  entry : u.entry tok = none
  others : ∀ v, v ≠ tok → u.entry v = base.entry v
  queued : base.rlc.protocol.length < 12 → (⟨.lapse tok cause.reason, 0⟩ : Queued) ∈ u.rlc.protocol
  record : Recorded (.lapse b tok x.bikeId x.bikeClass cause) base u.store
  pairs : ∀ p, p ∈ attentionPairs base → p ∈ attentionPairs u

/-- R127: the bay whose run is over hands over its LAPSE record, ends the claim and detaches it. -/
theorem State.lapseBay_over {base : State} {b : Bay} {x : BayRecord} {tok : TokenId} {cause : RelatchCause} {n : Entry}
    (claim : x.claim = some tok) (because : x.cause = some cause) (law : TableLaw base) (known : base.entry tok = some n)
    (held : n.status = .ownHeld) : ∃ u, Lapsed base u b x tok cause ∧
      (base.over b x).lapseBay b = u.over b { x with claim := none, cause := none } := by
  obtain ⟨st, aq, q, handed⟩ := (base.over b x).handOver_sets false (.lapse b tok x.bikeId x.bikeClass cause)
  have record := State.handOver_recorded (s := base) (x := base.over b x) (.lapse b tok x.bikeId x.bikeClass cause) rfl rfl rfl
  have pairs := (base.over b x).handOver_pairs false (.lapse b tok x.bikeId x.bikeClass cause)
  have answer : (base.over b x).lapseBay b = (((base.over b x).handOver false
      (.lapse b tok x.bikeId x.bikeClass cause)).lapseClaim tok cause.reason).updateBay b
        (fun r => { r with claim := none, cause := none }) := by
    unfold State.lapseBay
    rw [State.over_bay, if_pos rfl, claim, because]
  generalize (base.over b x).handOver false (.lapse b tok x.bikeId x.bikeClass cause) = w at *
  have table : w.table = base.table := by rw [handed]; rfl
  have protocol : w.rlc.protocol = base.rlc.protocol := by rw [handed]; rfl
  obtain ⟨gone, others, queued⟩ := State.lapseClaim_spec (s := w) cause.reason
    (by unfold TableLaw at law ⊢; rw [table]; exact law) ((State.entry_of_table table tok).trans known) held
  obtain ⟨tb, p, a, lapsed⟩ := w.lapseClaim_sets tok cause.reason
  refine ⟨{ base with
    table := tb, store := st, aq := aq, rlc := { base.rlc with protocol := p, service := q, attempt := a } },
    ⟨⟨_, _, _, _, _, _, rfl⟩, ?_, fun v other => ?_, fun room => ?_, ?_, fun pair mem => ?_⟩, ?_⟩
  · rw [lapsed] at gone
    exact gone
  · have same := others v other
    rw [lapsed] at same
    exact same.trans (State.entry_of_table table v)
  · have mem := queued (by rw [protocol]; exact room)
    rw [lapsed] at mem
    exact mem
  · rw [handed] at record
    exact record
  · have mem := pairs pair mem
    rw [handed] at mem
    exact mem
  · rw [answer, lapsed, handed]
    rw [← State.over_update _ b x (fun r => { r with claim := none, cause := none })]
    rfl

end Sys2Proof.Machine

namespace Sys2Proof.Safety

open Sys2Proof.Machine

/-- R143: what the end of a run leaves of the post `base`, its bay apart, and the drive, which goes on. -/
structure RestOver (s base t : State) (b : Bay) : Prop where
  hands : HandsOn s.drive.waiting t
  others : ∀ d, d ≠ b → t.bay d = base.bay d
  table : t.table = base.table
  ce : t.ce = base.ce
  tap : t.tap = base.tap
  store : t.store = base.store
  protocol : t.rlc.protocol = base.rlc.protocol

theorem FaultedOver.rest {s base t : State} {b : Bay} {code : FaultCode} {x : BayRecord} (h : FaultedOver s base t b code x) :
    RestOver s base t b :=
  ⟨h.hands, h.others, h.table, h.ce, h.tap, h.store, h.protocol⟩

theorem restOver {s base : State} {b : Bay} (x : BayRecord) (drive : base.drive = s.drive) :
    (base.over b x).freeDrive.grant.closingCheck.bay b = x ∧ RestOver s base (base.over b x).freeDrive.grant.closingCheck b := by
  obtain ⟨bays, table, ce, tap, store, rlc, _, _⟩ := granted_keeps (base.over b x)
  have hands := State.grant_handsOn (y := base.over b x) rfl
  rw [show (base.over b x).drive = s.drive from drive] at hands
  refine ⟨?_, hands, fun d other => ?_, table, ce, tap, store, by rw [rlc]; rfl⟩
  · rw [bays, State.over_bay, if_pos rfl]
  · rw [bays, State.over_bay, if_neg other]

/-- Settles O51: the lapse comes first whatever the result (`State.lapseBay_over`), then DOCKED or FAULTED (`faultedOver`). -/
theorem relatchesEnd : Obligations.RelatchesEnd := by
  intro s r c e m b x tok n cause runs ends going law tables here state none' claim because known held is
  subst here is
  obtain ⟨result, ending, exec'⟩ := exec_ends_over ends runs
  obtain ⟨_, waits⟩ := DriveLaw.over law runs (t := s) rfl
  obtain ⟨succeeds, _, fails⟩ := endingOf_cases ending
  obtain ⟨aq, q, told⟩ := s.told_sets r.bay e
  have record : ((s.told r.bay e).over r.bay (atEnd s r m)).bay r.bay = atEnd s r m := by rw [State.over_bay, if_pos rfl]
  obtain ⟨_, _, _, _, relatching, _⟩ := State.takeResult_states
    (y := (s.told r.bay e).over r.bay (atEnd s r m)) r.run result (by rw [record]; exact none')
  rw [relatching (by rw [record]; exact state)] at exec'
  obtain ⟨u, lapsed, over'⟩ := State.lapseBay_over (base := s.told r.bay e) (b := r.bay) (x := atEnd s r m) (n := n) claim
    because (by rw [told]; exact tables) (by rw [told]; exact known) held
  obtain ⟨⟨tb, st, aq', p, q', a, is⟩, gone, others, queued, handed, pairs⟩ := lapsed
  have mode : u.mode = s.mode := by rw [is, told]
  have image : u.image = s.image := by rw [is, told]
  have drive : u.drive = s.drive := by rw [is, told]
  have finish {t : State} (rest : RestOver s u t r.bay) : (∀ d, d ≠ r.bay → t.bay d = s.bay d) ∧ t.entry tok = none ∧
      (∀ v, v ≠ tok → t.entry v = s.entry v) ∧ (s.rlc.protocol.length < 12 →
        (⟨.lapse tok (if cause = .notTaken then .notTaken else .relatchAction), 0⟩ : Queued) ∈ t.rlc.protocol) ∧
      Recorded (.lapse r.bay tok (s.bay r.bay).bikeId (s.bay r.bay).bikeClass cause) s t.store ∧ t.tap = s.tap ∧
      t.ce = s.ce ∧ HandsOn s.drive.waiting t := by
    refine ⟨fun d other => (rest.others d other).trans ?_, (State.entry_of_table rest.table tok).trans gone,
      fun v other => (State.entry_of_table rest.table v).trans ((others v other).trans ?_), fun room => ?_, ?_,
      rest.tap.trans ?_, rest.ce.trans ?_, rest.hands⟩
    · rw [is, told]; rfl
    · rw [told]; rfl
    · rw [rest.protocol, ← RelatchCause.reason_eq]
      exact queued (by rw [told]; exact room)
    · rw [rest.store]
      rw [told] at handed
      exact handed
    · rw [is, told]
    · rw [is, told]
  by_cases success : e = .success
  case pos =>
    have answer : ((s.told r.bay e).over r.bay (atEnd s r m)).relatchEnd r.bay result =
        u.over r.bay { atEnd s r m with state := .docked, claim := none, cause := none } := by
      rw [succeeds success, State.relatchEnd, over']
      exact State.over_update u r.bay _ _
    rw [answer] at exec'
    obtain ⟨bay, rest⟩ := restOver (s := s) (b := r.bay)
      { atEnd s r m with state := .docked, claim := none, cause := none } drive
    exact ⟨_, exec', fun _ => bay, fun h => absurd success h, finish rest⟩
  case neg =>
    have failing : e = .limit ∨ e = .driver := by
      cases e with
      | success => exact absurd rfl success
      | limit => exact .inl rfl
      | driver => exact .inr rfl
      | stopped => exact absurd rfl going
    obtain ⟨byDriver, code, kinds⟩ := fails failing
    obtain ⟨_, _, _, _, failsRelatch, _⟩ := State.failed_answers
      ((s.told r.bay e).over r.bay (atEnd s r m)) r.bay r.run kinds
    rw [failsRelatch, over', State.failRun, code, byDriver] at exec'
    have faults := faultedOver (s := s) (base := u) (b := r.bay) (x := { atEnd s r m with claim := none, cause := none })
      (if e = .driver then .driverFault else .latchFail) (decide (e = .driver)) mode image drive waits
      fun driver working unmasked => by
        rw [if_pos (of_decide_eq_true driver)]
        exact pairs _ (State.told_records (of_decide_eq_true driver) working unmasked)
    exact ⟨_, exec', fun h => absurd h success, fun _ => faults.faulted, finish faults.rest⟩

end Sys2Proof.Safety
end

section
/-! SUPPORT. ReleaseEnds: the end of the RELEASE run of a RELEASING bay (R104 to R106, R124, R125, R143). -/

namespace Sys2Proof.Machine

open Sys2Proof.Safety

/-- R119, R145: a bay that enters EMPTY while the drive is held, on a post without a run. -/
theorem State.tryDock_held {u : State} {b h : Bay} (empty : (u.bay b).state = .empty) (still : u.run = none)
    (held : u.drive.holder = some h) (waits : u.requestWaits b = false) :
    u.tryDock b = if (u.input b).seat = true ∧ (u.pendingOf b).length < 2 then
      { (u.updateBay b (fun r => { r with state := .docking })) with
        drive := { u.drive with waiting := u.drive.waiting ++ [⟨b, .role .relatch⟩] } }
      else u := by
  unfold State.tryDock
  by_cases docks : (u.input b).seat = true ∧ (u.pendingOf b).length < 2
  · rw [if_pos ⟨empty, docks.1, docks.2⟩, if_pos docks]
    exact State.requestRun_held (y := u.updateBay b (fun r => { r with state := .docking })) still held waits
  · rw [if_neg (fun h => docks h.2), if_neg docks]

/-- R124: the post once a release of its transaction's bay has succeeded, presence not yet considered. -/
theorem State.enterOpen_over {s : State} {b : Bay} {x : BayRecord} (phase : s.tap.phase = .releaseStart)
    (chosen : s.tap.chosen = some b) : ∃ l, (s.over b x).enterOpen b = (if (s.input b).presence = true then
        ({ s with tap := { s.tap with phase := .verdict, verdict := some (.granted b) }, link := l } : State).over b
          { x with state := .opened, take := some (1000 * s.cfg.takeS) }
      else State.withdrawal (({ s with
        tap := { s.tap with phase := .verdict, verdict := some (.granted b) }, link := l } : State).over b
          { x with state := .opened, take := some (1000 * s.cfg.takeS) }) b) ∧
      Told (.verdict (.granted b) .transaction) ({ s with link := l } : State) ∧
      Told (.bayLight b .opened) ({ s with link := l } : State) := by
  obtain ⟨l, lit⟩ := ((s.over b { x with state := .opened, take := some (1000 * s.cfg.takeS) }).endTransaction
    (.granted b)).placeLight_sets b .opened
  have verdict := State.placeLight_keeps _ b .opened _ _ ((s.over b
    { x with state := .opened, take := some (1000 * s.cfg.takeS) }).endTransaction_told (.granted b))
  have shown := State.placeLight_told ((s.over b { x with state := .opened, take := some (1000 * s.cfg.takeS) }).endTransaction
    (.granted b)) b .opened
  rw [lit] at verdict shown
  refine ⟨l, ?_, Told.of_link verdict rfl, Told.of_link shown rfl⟩
  have opens : (s.over b x).updateBay b (fun r => { r with state := .opened, take := some (1000 * s.cfg.takeS) }) =
      s.over b { x with state := .opened, take := some (1000 * s.cfg.takeS) } := State.over_update s b x _
  have granted (y : State) (there : y.tap.phase = .releaseStart ∧ y.tap.chosen = some b) :
      (if y.tap.phase = .releaseStart ∧ y.tap.chosen = some b then y.endTransaction (.granted b) else y) =
        y.endTransaction (.granted b) := if_pos there
  unfold State.enterOpen
  dsimp only
  rw [show (s.over b x).cfg = s.cfg from rfl, opens,
    granted (s.over b { x with state := .opened, take := some (1000 * s.cfg.takeS) }) ⟨phase, chosen⟩, lit]
  rfl

end Sys2Proof.Machine

namespace Sys2Proof.Safety

open Sys2Proof.Machine

/-- R149, R152: what a record handed over leaves depends on the store, the configuration and the stamp alone. -/
theorem Recorded.of_post {s s' : State} {body : RecordBody} {st : RecordStore} (h : Recorded body s' st) (store : s'.store = s.store)
    (image : s'.image = s.image) (stamp : s'.ssu = s.ssu) : Recorded body s st := by
  have size : s'.segmentSize = s.segmentSize := by
    unfold State.segmentSize State.cfg
    rw [image]
  have blocked : s'.blocked = s.blocked := by
    unfold State.blocked State.writerSegment State.flagged
    rw [store, size]
  unfold Recorded at h ⊢
  rw [blocked, size, store, stamp] at h
  exact h

/-! ### The walk after a failed release -/

/-- R105: the candidates that can still serve once the bay of a failed release is FAULTED. -/
theorem nextCandidate_lost {s lost : State} {r : Run} {tok : Token} (runs : s.run = some r)
    (state : (s.bay r.bay).state = .releasing) (faulted : (lost.bay r.bay).state = .faulted)
    (others : ∀ d, d ≠ r.bay → lost.bay d = s.bay d) (still : lost.run = none) (image : lost.image = s.image)
    (store : lost.store = s.store) (tap : lost.tap = s.tap) (j : Nat) (d : Bay) :
    NextCandidate lost tok j d ↔ NextCandidate s tok j d := by
  refine nextCandidate_of (by rw [tap]) (by rw [tap]) fun b => ?_
  by_cases here : b = r.bay
  · rw [here]
    refine ⟨fun h => ?_, fun h => ?_⟩
    · exact nomatch faulted.symm.trans h.2.1
    · exact nomatch state.symm.trans h.2.1
  · refine canServe_of image (others b here) store ?_
    have away : s.runsAt b = false := Bool.eq_false_iff.mpr fun h => here ((State.runsAt_of runs).mp h).symm
    rw [away]
    unfold State.runsAt
    rw [still]


/-- R124: the bay of the failed release as it becomes FAULTED, before the walk over the candidates goes on. -/
structure Lost (s lost : State) (b : Bay) (code : FaultCode) (x : BayRecord) : Prop where
  faulted : Faulted b code x s lost
  others : ∀ d, d ≠ b → lost.bay d = s.bay d
  still : lost.run = none
  drive : lost.drive = s.drive
  table : lost.table = s.table
  tap : lost.tap = s.tap
  store : lost.store = s.store
  image : lost.image = s.image
  stamp : lost.ssu = s.ssu
  protocol : lost.rlc.protocol = s.rlc.protocol

theorem lost_of_told {s : State} {b : Bay} {x : BayRecord} {e : Ending} {code : FaultCode} (waits : s.requestWaits b = false)
    (driven : code = .driverFault → e = .driver) :
    Lost s (((s.told b e).over b x).faultBay b code (code == .driverFault)) b code x := by
  have records := State.told_records (s := s) (b := b) (e := e)
  obtain ⟨aq, q, told⟩ := s.told_sets b e
  generalize s.told b e = base at *
  have faulted := State.faultBay_faulted (s := s) (base := base) (b := b) (x := x) (code := code)
    (raised := code == .driverFault) (by rw [told]) (by rw [told]) fun raised working unmasked => by
      have driver : code = .driverFault := eq_of_beq raised
      rw [driver]
      exact records (driven driver) working unmasked
  obtain ⟨l, aq', q', e'⟩ := (base.over b x).faultBay_sets b code (code == .driverFault)
  rw [e'] at faulted ⊢
  refine ⟨faulted, fun d other => ?_, rfl, ?_, ?_, ?_, ?_, ?_, ?_, ?_⟩
  · refine (State.bay_set (base.over b x) b d _).trans ((if_neg other).trans ?_)
    rw [State.over_bay, if_neg other, told]
    rfl
  · rw [told]
    exact congrArg (fun w => ({ s.drive with waiting := w } : DriveArbiter)) (State.withdraw_none waits)
  all_goals rw [told]; rfl

namespace Lost

variable {s lost : State} {r : Run} {tok : Token} {n : Entry} {code : FaultCode} {x : BayRecord}

/-- R104, R105: the claim goes on to the next candidate. -/
theorem hands (h : Lost s lost r.bay code x) (runs : s.run = some r) (held : s.drive.holder = some r.bay)
    (state : (s.bay r.bay).state = .releasing) (known : s.entry tok.id = some n) (own : n.status = .ownHeld) (j : Nat)
    (d : Bay) (next : NextCandidate s tok j d) :
    let t := (lost.walkOn tok).freeDrive.grant.closingCheck
    Faulted r.bay code x s t ∧ t.bay d = { s.bay d with state := .releasing, claim := some tok.id } ∧
      (∀ k, k ≠ r.bay → k ≠ d → t.bay k = s.bay k) ∧
      HandsOn (s.drive.waiting.filter (fun q => q.bay != d) ++ [⟨d, .role .release⟩]) t ∧
      t.tap = { s.tap with position := j, chosen := some d, rotation := d, phase := .releaseStart } ∧
      t.entry tok.id = some { n with bay := some d } ∧ (∀ u, u ≠ tok.id → t.entry u = s.entry u) ∧ t.store = s.store := by
  have apart : d ≠ r.bay := by
    rintro rfl
    exact nomatch state.symm.trans next.2.2.1.2.1
  have next' : NextCandidate lost tok j d := (nextCandidate_lost runs state (by rw [h.faulted.1]) h.others h.still h.image h.store
    h.tap j d).mpr next
  obtain ⟨tb, dr, rn, sets, named, kept, _, asks⟩ := State.handClaim_spec (b := d) j
    ((State.entry_of_table h.table tok.id).trans known) own
  obtain ⟨still, drive⟩ := asks r.bay h.still (by rw [h.drive]; exact held)
  rw [← State.walkOn_found next'] at *
  generalize lost.walkOn tok = y at *
  obtain ⟨bays, table, _, tap, store, _, link, aq⟩ := granted_keeps y
  have hands := State.grant_handsOn still
  rw [drive, h.drive] at hands
  have bay (k : Bay) : y.bay k = if k = d then { lost.bay d with claim := some tok.id, state := .releasing } else lost.bay k := by
    rw [sets]
    exact State.bay_set lost d k _
  refine ⟨faulted_keeps h.faulted ?_ (fun k => Told.of_link k (link.trans ?_)) (fun p k => ?_), ?_,
    fun k other far => ?_, hands, ?_, (State.entry_of_table table _).trans named, fun u other => ?_, ?_⟩
  · rw [bays, bay, if_neg apart.symm]
  · rw [sets]
  · rw [attentionPairs_of_aq aq, attentionPairs_of_aq (congrArg State.aq sets :)]
    exact k
  · rw [bays, bay, if_pos rfl, h.others d apart]
  · rw [bays, bay, if_neg far, h.others k other]
  · rw [tap, sets, h.tap]
  · exact (State.entry_of_table table u).trans ((kept u other).trans (State.entry_of_table h.table u))
  · rw [store, sets]
    exact h.store

/-- R106: no candidate is left, and the claim ends as a lapse. -/
theorem exhausts (h : Lost s lost r.bay code x) (runs : s.run = some r) (state : (s.bay r.bay).state = .releasing)
    (known : s.entry tok.id = some n) (own : n.status = .ownHeld) (none' : ∀ (j : Nat) (d : Bay), ¬NextCandidate s tok j d)
    (law : TableLaw s) :
    let t := (lost.walkOn tok).freeDrive.grant.closingCheck
    Faulted r.bay code x s t ∧ (∀ d, d ≠ r.bay → t.bay d = s.bay d) ∧ HandsOn s.drive.waiting t ∧
      t.tap = { s.tap with phase := .verdict, verdict := some .bayFault } ∧ Told (.verdict .bayFault .transaction) t ∧
      t.entry tok.id = none ∧ (∀ u, u ≠ tok.id → t.entry u = s.entry u) ∧
      (s.rlc.protocol.length < 12 → (⟨.lapse tok.id .noBay, 0⟩ : Queued) ∈ t.rlc.protocol) ∧
      Recorded (.noBay tok.id) s t.store := by
  have none'' (j : Nat) (d : Bay) : ¬NextCandidate lost tok j d := fun next => none' j d
    ((nextCandidate_lost runs state (by rw [h.faulted.1]) h.others h.still h.image h.store h.tap j d).mp next)
  obtain ⟨tb, l, st, aq, p, q, a, sets, gone, kept, queued, record, verdict, told, pairs⟩ := State.exhaust_spec (s := lost)
    (by unfold TableLaw at law ⊢; rw [h.table]; exact law) ((State.entry_of_table h.table tok.id).trans known) own
  rw [← State.walkOn_none none''] at *
  generalize lost.walkOn tok = y at *
  obtain ⟨bays, table, _, tap, store, rlc, link, attention⟩ := granted_keeps y
  have hands := State.grant_handsOn (y := y) (by rw [sets]; exact h.still)
  have drive : y.drive = s.drive := by
    rw [sets]
    exact h.drive
  rw [drive] at hands
  have bay (d : Bay) : y.bay d = lost.bay d := by
    rw [sets]
    rfl
  refine ⟨faulted_keeps h.faulted ((bays _).trans (bay _)) (fun k => Told.of_link (told _ k) link) (fun p k => ?_),
    fun d other => (bays d).trans ((bay d).trans (h.others d other)), hands, ?_, Told.of_link verdict link,
    (State.entry_of_table table _).trans gone, fun u other => ?_, fun room => ?_, ?_⟩
  · rw [attentionPairs_of_aq attention]
    exact pairs p k
  · rw [tap, sets, h.tap]
  · exact (State.entry_of_table table u).trans ((kept u other).trans (State.entry_of_table h.table u))
  · rw [rlc]
    exact queued (by rw [h.protocol]; exact room)
  · rw [store]
    exact record.of_post h.store h.image h.stamp

end Lost

/-- R119, R125: the bicycle of a bay whose run is over is gone as the bay opens. -/
theorem withdrawal_over {y : State} {b : Bay} {tok : TokenId} {n : Entry} (still : y.run = none) (held : y.drive.holder = some b)
    (waits : y.requestWaits b = false) (claim : (y.bay b).claim = some tok) (known : y.entry tok = some n)
    (own : n.status = .ownHeld) (verdict : Verdict) (told : Told (.verdict verdict .transaction) y) :
    let t := (y.withdrawal b).freeDrive.grant.closingCheck
    t.bay b = { y.bay b with
        state := if (y.input b).seat = true ∧ (t.pendingOf b).length < 2 then .docking else .empty
        take := none, claim := none, bikeId := none, bikeClass := none } ∧ (∀ d, d ≠ b → t.bay d = y.bay d) ∧ t.tap = y.tap ∧
      Told (.verdict verdict .transaction) t ∧ Told (.bayLight b .shut) t ∧
      t.entry tok = some { n with status := .ownTaken } ∧ (∀ u, u ≠ tok → t.entry u = y.entry u) ∧
      Recorded (.start b tok (y.bay b).bikeId (y.bay b).bikeClass false) y t.store ∧
      HandsOn (y.drive.waiting ++ (if (y.input b).seat = true ∧ (t.pendingOf b).length < 2 then
        [⟨b, .role .relatch⟩] else [])) t := by
  obtain ⟨u, withdrawn, rented, bay, drive, run, inputs, shut, keeps⟩ := withdrawal_rented y.inputs claim known own
  have withdrawn : y.withdrawal b = u.tryDock b := withdrawn
  rw [withdrawn]
  have docks := State.tryDock_held (u := u) (b := b) (h := b) (by rw [bay]) (run.trans still) (by rw [drive]; exact held)
    (by unfold State.requestWaits at waits ⊢; rw [drive]; exact waits)
  rw [show u.input b = y.input b by unfold State.input; rw [inputs]] at docks
  have rented' := rented.tryDock
  obtain ⟨_, _, _, sets⟩ := u.tryDock_sets b
  obtain ⟨bays, table, _, tap, store, _, link, _⟩ := granted_keeps (u.tryDock b)
  have sameStore : (u.tryDock b).freeDrive.grant.closingCheck.store = u.store := store.trans (congrArg State.store sets :)
  have sameLink : (u.tryDock b).freeDrive.grant.closingCheck.link = u.link := link.trans (congrArg State.link sets :)
  have pending : (u.tryDock b).freeDrive.grant.closingCheck.pendingOf b = u.pendingOf b := by
    unfold State.pendingOf
    rw [sameStore]
  dsimp only
  rw [pending]
  refine ⟨?_, fun d other => (bays d).trans (rented'.bays d other), tap.trans rented'.tap,
    Told.of_link (keeps _ _ told) sameLink, Told.of_link shut sameLink, (State.entry_of_table table tok).trans rented'.entry,
    fun v other => (State.entry_of_table table v).trans (rented'.others v other), ?_, ?_⟩
  · rw [bays, docks]
    by_cases room : (y.input b).seat = true ∧ (u.pendingOf b).length < 2
    · rw [if_pos room, if_pos room]
      exact (State.bay_updateBay u b b (fun r => { r with state := .docking })).trans ((if_pos rfl).trans (by rw [bay]))
    · rw [if_neg room, if_neg room, bay]
  · rw [store]
    exact rented'.record
  · have hands := State.grant_handsOn (y := u.tryDock b) (by
      rw [docks]
      split
      · exact run.trans still
      · exact run.trans still)
    have waiting : (u.tryDock b).drive.waiting = y.drive.waiting ++
        (if (y.input b).seat = true ∧ (u.pendingOf b).length < 2 then [⟨b, .role .relatch⟩] else []) := by
      rw [docks]
      split
      · rw [drive]
      · rw [drive, List.append_nil]
    rw [waiting] at hands
    exact hands

/-! ### The end of the release -/

/-- R124: the code of a failed release. -/
theorem releaseFault_eq {result : RunResult} {e : Ending} (presence : Bool)
    (code : result.fault = if e = .driver then .driverFault else .latchFail) : releaseFault presence result =
      if presence = false then .forcedRemoval else if e = .driver then .driverFault else .latchFail := by
  cases presence with
  | true => exact code
  | false => rfl

/-- Settles O50: on SUCCESS `State.enterOpen_over`, with `withdrawal_rented` for a bicycle gone; on FAIL the walk of `Lost`. -/
theorem releasesEnd : Obligations.ReleasesEnd := by
  intro s r c e m b x tok n runs ends law here state none' phase chosen token claim known own is
  subst here is
  obtain ⟨result, ending, exec'⟩ := exec_ends_over ends runs
  obtain ⟨held, waits⟩ := DriveLaw.over law runs (t := s) rfl
  obtain ⟨succeeds, _, fails⟩ := endingOf_cases ending
  have record : ((s.told r.bay e).over r.bay (atEnd s r m)).bay r.bay = atEnd s r m := by rw [State.over_bay, if_pos rfl]
  obtain ⟨_, _, _, releasing, _⟩ := State.takeResult_states
    (y := (s.told r.bay e).over r.bay (atEnd s r m)) r.run result (by rw [record]; exact none')
  rw [releasing (by rw [record]; exact state)] at exec'
  refine ⟨fun success => ?success, fun failing code is => ?failure⟩
  case success =>
    obtain ⟨l, opens, verdict, shown⟩ := State.enterOpen_over (x := atEnd s r m) phase chosen
    rw [succeeds success, show s.told r.bay e = s by rw [success]; rfl, State.releaseEnd, opens] at exec'
    refine ⟨fun present => ?_, fun gone => ?_⟩
    · rw [if_pos present] at exec'
      obtain ⟨bay, rest⟩ := restOver (s := s) (b := r.bay)
        (base := { s with tap := { s.tap with phase := .verdict, verdict := some (.granted r.bay) }, link := l })
        { atEnd s r m with state := .opened, take := some (1000 * s.cfg.takeS) } rfl
      obtain ⟨_, _, _, _, _, rlc, link, _⟩ := granted_keeps
        (({ s with tap := { s.tap with phase := .verdict, verdict := some (.granted r.bay) }, link := l } : State).over r.bay
          { atEnd s r m with state := .opened, take := some (1000 * s.cfg.takeS) })
      exact ⟨_, exec', bay, rest.others, rest.tap, Told.of_link verdict link, Told.of_link shown link, rest.table, rest.store,
        rlc, rest.hands⟩
    · rw [if_neg (by rw [gone]; nofun)] at exec'
      have bay : (({ s with
          tap := { s.tap with phase := .verdict, verdict := some (.granted r.bay) }, link := l } : State).over r.bay
          { atEnd s r m with state := .opened, take := some (1000 * s.cfg.takeS) }).bay r.bay =
            { atEnd s r m with state := .opened, take := some (1000 * s.cfg.takeS) } := by rw [State.over_bay, if_pos rfl]
      obtain ⟨after, others, tap, verdict', shut, entry, kept, handed, hands⟩ := withdrawal_over
        (y := ({ s with tap := { s.tap with phase := .verdict, verdict := some (.granted r.bay) }, link := l } : State).over r.bay
          { atEnd s r m with state := .opened, take := some (1000 * s.cfg.takeS) }) (b := r.bay) (n := n) rfl held waits
        (by rw [bay]; exact claim) known own (.granted r.bay) (Told.of_link verdict rfl)
      rw [bay] at after handed
      exact ⟨_, exec', after, fun d other => (others d other).trans (by rw [State.over_bay, if_neg other]; rfl), tap, verdict',
        shut, entry, kept, handed, hands⟩
  case failure =>
    obtain ⟨_, code', kinds⟩ := fails failing
    obtain ⟨_, _, _, failsRelease, _⟩ := State.failed_answers
      ((s.told r.bay e).over r.bay (atEnd s r m)) r.bay r.run kinds
    have input : ((s.told r.bay e).over r.bay (atEnd s r m)).input r.bay = s.input r.bay := by
      obtain ⟨_, _, told⟩ := s.told_sets r.bay e
      rw [told]
      rfl
    have lost := lost_of_told (x := atEnd s r m) (code := code) waits fun driver => by
      refine Classical.byContradiction fun other => ?_
      rw [is, if_neg other] at driver
      split at driver
      · cases driver
      · cases driver
    have walks : ((s.told r.bay e).over r.bay (atEnd s r m)).failRelease r.bay result =
        (((s.told r.bay e).over r.bay (atEnd s r m)).faultBay r.bay code (code == .driverFault)).walkOn tok := by
      unfold State.failRelease
      rw [input, releaseFault_eq _ code', ← is]
      dsimp only
      rw [lost.tap, token]
      exact if_pos ⟨phase, chosen⟩
    rw [failsRelease, walks] at exec'
    exact ⟨fun j d next => ⟨_, exec', lost.hands runs held state known own j d next⟩,
      fun none'' tables => ⟨_, exec', lost.exhausts runs state known own none'' tables⟩⟩

end Sys2Proof.Safety
end

section
/-! SUPPORT. StoppedEnds: runs that end STOPPED, with or without a follow-on (R114, R118, R121, R128, R142, R143). -/

namespace Sys2Proof.Machine

open Sys2Proof.Safety

variable {s z : State} {b : Bay} {x : BayRecord}

/-- R142: a result of STOPPED, with no follow-on named, asks nothing of the bay, and so does any result in FAULTED. -/
theorem State.takeResult_stopped {y : State} (run : RunFor) (n : Nat) (none' : (y.bay b).followOn = none) :
    y.takeResult b run (.stopped n) = y := by
  unfold State.takeResult
  rw [none']
  dsimp only
  cases (y.bay b).state with
  | docked =>
    dsimp only
    split
    · rfl
    · rfl
  | _ => rfl

theorem State.takeResult_faulted {y : State} (run : RunFor) (result : RunResult) (none' : (y.bay b).followOn = none)
    (faulted : (y.bay b).state = .faulted) : y.takeResult b run result = y := by
  unfold State.takeResult
  rw [none', faulted]

/-- R141, R142: how a stop taken at once ends the run. -/
def stopEnding (s : State) (b : Bay) : Ending := if (s.input b).driverFault = true then .driver else .stopped

/-- R142: a stop asked for in a DWELL is taken at once. -/
theorem State.requestStop_dwelling {r : Run} (runs : z.run = some r) (here : r.bay = b) (dwells : r.dwelling = true) :
    ∃ result, endingOf result = stopEnding z b ∧ z.requestStop b =
      (((z.told b (stopEnding z b)).over b (atEnd z r r.measured)).takeResult b r.run result).freeDrive.grant := by
  subst here
  unfold State.requestStop stopEnding
  rw [runs]
  dsimp only
  rw [if_pos rfl, if_pos dwells]
  by_cases fault : (z.input r.bay).driverFault = true
  · rw [if_pos fault, if_pos fault]
    refine ⟨.failDriver r.index, rfl, ?_⟩
    have record : atEnd (z.raise (.bay r.bay) .driverFault) { r with stop := true } r.measured = atEnd z r r.measured := by
      unfold atEnd
      rw [State.raise_bay]
    rw [State.driverFails, State.completeRun_over, State.told, if_pos rfl, ← record]
  · rw [if_neg fault, if_neg fault]
    exact ⟨.stopped r.index, rfl, State.completeRun_over z _ _⟩

end Sys2Proof.Machine

namespace Sys2Proof.Safety

open Sys2Proof.Machine

variable {s z : State} {b : Bay} {x : BayRecord}

/-- R142, R143: what a stop taken at once leaves at the bay and of the post. -/
structure StopOver (z t : State) (b : Bay) (after : BayRecord) (waiting : List Request) : Prop where
  bay : t.bay b = after
  others : ∀ d, d ≠ b → t.bay d = z.bay d
  table : t.table = z.table
  ce : t.ce = z.ce
  tap : t.tap = z.tap
  store : t.store = z.store
  protocol : t.rlc.protocol = z.rlc.protocol
  link : t.link = z.link
  pairs : ∀ p, p ∈ attentionPairs z → p ∈ attentionPairs t
  hands : HandsOn waiting t
  records : StoppedOrFailed b z t

theorem stopOver {after : BayRecord} (waiting : List Request) (e : Ending) (ending : e = stopEnding z b) :
    StopOver z (State.freeDrive { ((z.told b e).over b after) with
      drive := { z.drive with waiting := waiting } }).grant.closingCheck b after waiting := by
  have records := State.told_records (s := z) (b := b) (e := e)
  have pairs (p : Source × Code) (mem : p ∈ attentionPairs z) : p ∈ attentionPairs (z.told b e) := by
    unfold State.told
    split
    · exact z.raise_keeps _ _ p mem
    · exact mem
  obtain ⟨aq, q, told⟩ := z.told_sets b e
  generalize z.told b e = base at *
  have hands := State.grant_handsOn
    (y := { (base.over b after) with drive := { z.drive with waiting := waiting } }) rfl
  obtain ⟨bays, table, ce, tap, store, rlc, link, attention⟩ := granted_keeps
    { (base.over b after) with drive := { z.drive with waiting := waiting } }
  have bay (d : Bay) := (bays d).trans (State.over_bay base b d after)
  refine ⟨(bay b).trans (if_pos rfl), fun d other => (bay d).trans ((if_neg other).trans ?_), table.trans ?_, ce.trans ?_,
    tap.trans ?_, store.trans ?_, ?_, link.trans ?_, fun p mem => ?_, hands, fun fault working unmasked => ?_⟩
  case refine_6 =>
    rw [rlc]
    show base.rlc.protocol = _
    rw [told]
  case refine_8 =>
    rw [attentionPairs_of_aq attention]
    exact pairs p mem
  case refine_9 =>
    rw [attentionPairs_of_aq attention]
    exact records (ending.trans (if_pos fault)) working unmasked
  all_goals rw [told]; rfl

/-- R118, R121, R142: a stop taken at once at a bay that has become FAULTED. -/
theorem stop_faulted {r : Run} (runs : z.run = some r) (here : r.bay = b) (dwells : r.dwelling = true)
    (none' : (z.bay b).followOn = none) (faulted : (z.bay b).state = .faulted) :
    StopOver z (z.requestStop b).closingCheck b (atEnd z r r.measured) z.drive.waiting := by
  obtain ⟨result, _, stops⟩ := State.requestStop_dwelling runs here dwells
  subst here
  have record : ((z.told r.bay (stopEnding z r.bay)).over r.bay (atEnd z r r.measured)).bay r.bay = atEnd z r r.measured := by
    rw [State.over_bay, if_pos rfl]
  rw [stops, State.takeResult_faulted _ _ (by rw [record]; exact none') (by rw [record]; exact faulted)]
  have over' := stopOver (z := z) (b := r.bay) (after := atEnd z r r.measured) z.drive.waiting _ rfl
  obtain ⟨_, _, told⟩ := z.told_sets r.bay (stopEnding z r.bay)
  rw [told] at over' ⊢
  exact over'

/-- R114, R142: a stop taken at once at a bay that has named its follow-on. -/
theorem stop_asks {r : Run} {f : FollowOn} (runs : z.run = some r) (here : r.bay = b) (dwells : r.dwelling = true)
    (held : z.drive.holder = some b) (waits : z.requestWaits b = false) (named : (z.bay b).followOn = some f) :
    StopOver z (z.requestStop b).closingCheck b { atEnd z r r.measured with followOn := none }
      (z.drive.waiting ++ [⟨b, .role (if f = .home then .home else .release)⟩]) := by
  obtain ⟨result, _, stops⟩ := State.requestStop_dwelling runs here dwells
  subst here
  have record : ((z.told r.bay (stopEnding z r.bay)).over r.bay (atEnd z r r.measured)).bay r.bay = atEnd z r r.measured := by
    rw [State.over_bay, if_pos rfl]
  have over' := stopOver (z := z) (b := r.bay) (after := { atEnd z r r.measured with followOn := none })
    (z.drive.waiting ++ [⟨r.bay, .role (if f = .home then .home else .release)⟩]) _ rfl
  have drive : (z.told r.bay (stopEnding z r.bay)).drive = z.drive := by
    obtain ⟨_, _, told⟩ := z.told_sets r.bay (stopEnding z r.bay)
    rw [told]
  rw [stops, State.takeResult_followOn (f := f) _ _ (by rw [record]; exact named), State.over_update,
    State.requestRun_over _ (by rw [drive]; exact held) (by unfold State.requestWaits at waits ⊢; rw [drive]; exact waits), drive]
  exact over'

/-! ### The ends of stopped runs -/

/-- R142: the driver-fault input, the mode and the mask of the post `z` are those of `s`. -/
theorem StoppedOrFailed.of_post {t : State} (h : StoppedOrFailed b z t) (fault : (z.input b).driverFault = (s.input b).driverFault)
    (mode : z.mode = s.mode) (image : z.image = s.image) : StoppedOrFailed b s t := by
  unfold StoppedOrFailed State.masked State.cfg at h ⊢
  rw [fault, mode, image] at h
  exact h

/-- R114, R142, R143: the ends at a boundary. -/
theorem runsThatEndStopped {r : Run} {c : Instr} {e : Ending} {m : Option Nat} (runs : s.run = some r) (ends : Ends s r c e m)
    (law : DriveLaw s) : (∀ f : FollowOn, (s.bay r.bay).followOn = some f →
      Leaves c s r.bay { atEnd s r m with followOn := none }
        (s.drive.waiting ++ [⟨r.bay, .role (if f = .home then .home else .release)⟩])) ∧
    (e = .stopped → (s.bay r.bay).followOn = none → Leaves c s r.bay (atEnd s r m) s.drive.waiting) := by
  obtain ⟨result, ending, exec'⟩ := exec_ends_over ends runs
  obtain ⟨held, waits⟩ := DriveLaw.over law runs (t := s) rfl
  obtain ⟨_, stopped, _⟩ := endingOf_cases ending
  have record (base : State) : (base.over r.bay (atEnd s r m)).bay r.bay = atEnd s r m := by rw [State.over_bay, if_pos rfl]
  refine ⟨fun f named => ?_, fun stops none' => ?_⟩
  · obtain ⟨aq, q, told⟩ := s.told_sets r.bay e
    rw [State.takeResult_followOn (f := f) _ _ (by rw [record]; exact named), State.over_update, told,
      State.requestRun_over _ (by exact held) (by exact waits)] at exec'
    exact leaves_of exec' ⟨aq, q, s.link, rfl⟩
  · obtain ⟨n, rfl⟩ := stopped stops
    rw [State.takeResult_stopped _ _ (by rw [record]; exact none'), stops] at exec'
    exact leaves_of exec' ⟨s.aq, s.rlc.service, s.link, rfl⟩

/-- R118, R121, R142: forced removal at a bay whose run is asked to stop, at once in a DWELL. -/
theorem forceBay_stops {s y : State} {b : Bay} {r : Run} (is : ∃ i, y = { s with inputs := i })
    (fault : (y.input b).driverFault = (s.input b).driverFault) (runs : s.run = some r) (here : r.bay = b) (law : DriveLaw s)
    (none' : (s.bay b).followOn = none) :
    let t := (y.forceBay b).closingCheck
    (r.dwelling = false → Faulted b .forcedRemoval { s.bay b with bikeId := none, bikeClass := none } s t ∧ OnlyBay b s t ∧
      t.run = some { r with stop := true } ∧ t.drive = s.drive) ∧
    (r.dwelling = true →
      Faulted b .forcedRemoval { atEnd s r r.measured with bikeId := none, bikeClass := none } s t ∧ OnlyBay b s t ∧
      HandsOn s.drive.waiting t ∧ StoppedOrFailed b s t) := by
  subst here
  obtain ⟨_, waits⟩ := DriveLaw.over law runs (t := s) rfl
  obtain ⟨faulted, only, run, inputs, drive⟩ := loseBay_faulted (b := r.bay) .forcedRemoval is
  have kept : (y.loseBay r.bay .forcedRemoval).mode = s.mode ∧ (y.loseBay r.bay .forcedRemoval).image = s.image := by
    obtain ⟨_, rfl⟩ := is
    obtain ⟨_, _, _, _, e⟩ := State.loseBay_sets _ r.bay .forcedRemoval
    rw [e]
    exact ⟨rfl, rfl⟩
  rw [State.withdraw_none waits] at drive
  unfold State.forceBay
  generalize y.loseBay r.bay .forcedRemoval = z at *
  refine ⟨fun moving => ?_, fun dwells => ?_⟩
  · rw [(State.requestStop_cases z r.bay).2 r (run.trans runs) rfl moving]
    refine ⟨Faulted.closingCheck (faulted_keeps faulted rfl id fun _ mem => mem), OnlyBay.closingCheck only,
      State.closingCheck_run _, (State.closingCheck_drive _).trans drive⟩
  · have over' := stop_faulted (run.trans runs) rfl dwells (by rw [faulted.1]; exact none') (by rw [faulted.1])
    have record : atEnd z r r.measured = { ({ atEnd s r r.measured with bikeId := none, bikeClass := none } : BayRecord) with
        state := .faulted, fault := some .forcedRemoval, take := none, claim := none, cause := none, tagRead := none,
        failedDock := none } := by
      unfold atEnd
      rw [faulted.1]
    obtain ⟨_, told, records⟩ := faulted
    obtain ⟨others, table, ce, tap, store, protocol⟩ := only
    refine ⟨⟨over'.bay.trans record, Told.of_link told over'.link, fun working unmasked => over'.pairs _ (records working unmasked)⟩,
      ⟨fun d other => (over'.others d other).trans (others d other), over'.table.trans table, over'.ce.trans ce,
        over'.tap.trans tap, over'.store.trans store, over'.protocol.trans protocol⟩, ?_, ?_⟩
    · have hands := over'.hands
      rw [drive] at hands
      exact hands
    · refine StoppedOrFailed.of_post over'.records ?_ kept.1 kept.2
      rw [← fault]
      unfold State.input
      rw [inputs]

/-- R120, R142: the seat falls in DOCKING as the bay's run dwells. -/
theorem undock_stops {s : State} {b : Bay} {r : Run} (runs : s.run = some r) (here : r.bay = b) (law : DriveLaw s)
    (none' : (s.bay b).followOn = none) (dwells : r.dwelling = true) :
    let t := ((s.leveled b .seat false).undock b).closingCheck
    t.bay b = calibratingFrom (atEnd s r r.measured) ∧ OnlyBay b s t ∧ HandsOn (s.drive.waiting ++ [⟨b, .role .home⟩]) t ∧
      StoppedOrFailed b s t := by
  subst here
  obtain ⟨held, waits⟩ := DriveLaw.over law runs (t := s) rfl
  have running : (s.leveled r.bay .seat false).runsAt r.bay = true := (State.runsAt_of runs).mpr rfl
  have calibrates : (s.leveled r.bay .seat false).calibrate r.bay =
      (s.leveled r.bay .seat false).updateBay r.bay (fun x => { x.calibrating with followOn := some .home }) := if_pos running
  rw [show (s.leveled r.bay .seat false).undock r.bay = ((s.leveled r.bay .seat false).calibrate r.bay).requestStop r.bay from
    if_pos running, calibrates]
  have bay : ((s.leveled r.bay .seat false).updateBay r.bay (fun x => { x.calibrating with followOn := some .home })).bay r.bay =
      { (s.bay r.bay).calibrating with followOn := some .home } :=
    (State.bay_updateBay (s.leveled r.bay .seat false) r.bay r.bay
      (fun x => { x.calibrating with followOn := some .home })).trans (if_pos rfl)
  have over' := stop_asks (f := .home)
    (z := (s.leveled r.bay .seat false).updateBay r.bay (fun x => { x.calibrating with followOn := some .home })) runs rfl dwells
    held waits (by rw [bay])
  refine ⟨over'.bay.trans ?_, ⟨fun d other => (over'.others d other).trans ?_, over'.table, over'.ce, over'.tap, over'.store,
    over'.protocol⟩, over'.hands, StoppedOrFailed.of_post over'.records ?_ rfl rfl⟩
  · unfold atEnd calibratingFrom
    rw [bay, none']
    rfl
  · rw [State.bay_updateBay, if_neg other]
    rfl
  · exact (congrArg BayInputs.driverFault (State.leveled_input (s := s) (b := r.bay) .seat false) :)

/-- R128, R142: presence falls in RELATCHING as the bay's run dwells. -/
theorem lateWithdrawal_stops {s : State} {b : Bay} {r : Run} {tok : TokenId} {n : Entry} (runs : s.run = some r)
    (here : r.bay = b) (law : DriveLaw s) (none' : (s.bay b).followOn = none) (dwells : r.dwelling = true)
    (claim : (s.bay b).claim = some tok) (known : s.entry tok = some n) (own : n.status = .ownHeld) :
    let t := ((s.leveled b .presence false).lateWithdrawal b).closingCheck
    t.bay b = { atEnd s r r.measured with
      state := .reopening, claim := none, cause := none, bikeId := none, bikeClass := none } ∧
      t.entry tok = some { n with status := .ownTaken } ∧ (∀ u, u ≠ tok → t.entry u = s.entry u) ∧
      Recorded (.start b tok (s.bay b).bikeId (s.bay b).bikeClass true) s t.store ∧
      (∀ d, d ≠ b → t.bay d = s.bay d) ∧ HandsOn (s.drive.waiting ++ [⟨b, .role .release⟩]) t ∧ StoppedOrFailed b s t := by
  subst here
  obtain ⟨held, waits⟩ := DriveLaw.over law runs (t := s) rfl
  obtain ⟨u, rented, drive, run, inputs, bay, stops, _⟩ :=
    lateWithdrawal_rented (s.inputs.set r.bay ((s.input r.bay).setLevel .presence false)) claim known own
  have stops : (s.leveled r.bay .presence false).lateWithdrawal r.bay = _ := stops ((State.runsAt_of runs).mpr rfl)
  rw [stops]
  have rented' := rented.updateBay (fun x => { x with state := .reopening, followOn := some .release })
  have after : (u.updateBay r.bay (fun x => { x with state := .reopening, followOn := some .release })).bay r.bay =
      { s.bay r.bay with
        state := .reopening, followOn := some .release, claim := none, cause := none, bikeId := none, bikeClass := none } := by
    rw [State.bay_updateBay, if_pos rfl, bay]
  have over' := stop_asks (f := .release)
    (z := u.updateBay r.bay (fun x => { x with state := .reopening, followOn := some .release })) (run.trans runs) rfl dwells
    (by rw [← held, ← drive]; rfl) (by unfold State.requestWaits at waits ⊢; rw [← drive] at waits; exact waits) (by rw [after])
  refine ⟨over'.bay.trans ?_, (State.entry_of_table over'.table tok).trans rented'.entry,
    fun v other => (State.entry_of_table over'.table v).trans (rented'.others v other), ?_,
    fun d other => (over'.others d other).trans (rented'.bays d other), ?_,
    StoppedOrFailed.of_post over'.records ?_ rented'.mode rented'.image⟩
  · unfold atEnd
    rw [after]
    dsimp only
    rw [none']
  · rw [over'.store]
    exact rented'.record
  · have hands := over'.hands
    rw [show (u.updateBay r.bay (fun x => { x with state := .reopening, followOn := some .release })).drive = s.drive from
      drive] at hands
    exact hands
  · have input : (u.updateBay r.bay (fun x => { x with state := .reopening, followOn := some .release })).input r.bay =
        (s.leveled r.bay .presence false).input r.bay := congrArg (fun i => i.get r.bay) inputs
    rw [input, State.leveled_input]
    rfl

/-- Settles O52: the ends at a boundary are `runsThatEndStopped`; a sensor that falls in a DWELL ends the run at once. -/
theorem stoppedRuns : Obligations.StoppedRuns := by
  refine ⟨fun s r c e m b runs ends law here => ?_, fun s r b c x runs here law working none' is event => ?_⟩
  case refine_1 =>
    subst here
    exact runsThatEndStopped runs ends law
  case refine_2 =>
    subst is
    have fell : ∃ y : State, (∃ i, y = { s with inputs := i }) ∧ (y.input b).driverFault = (s.input b).driverFault ∧
        ((∃ n, (s.bay b).tagRead = some n) ∨ (s.bay b).tagRead = none ∧ (s.bay b).state = .docked →
          exec c s = .next (y.forceBay b).closingCheck) := by
      rcases event with ⟨rfl, present⟩ | ⟨rfl, seated⟩
      · obtain ⟨reading, idle⟩ := (s.leveled b .presence false).presenceFell_cases b
        refine ⟨s.leveled b .presence false, ⟨_, rfl⟩, by rw [State.leveled_input]; rfl, fun locked => ?_⟩
        rw [exec_presenceFalling working present]
        rcases locked with ⟨n, reads⟩ | ⟨clear, docked⟩
        · rw [reading (by change (s.bay b).tagRead.isSome = true; rw [reads]; rfl)]
        · rw [(idle clear).1 (.inl docked)]
      · obtain ⟨reading, idle⟩ := (s.leveled b .seat false).seatFell_cases b
        refine ⟨s.leveled b .seat false, ⟨_, rfl⟩, by rw [State.leveled_input]; rfl, fun locked => ?_⟩
        rw [exec_seatFalling working seated]
        rcases locked with ⟨n, reads⟩ | ⟨clear, docked⟩
        · rw [reading (by change (s.bay b).tagRead.isSome = true; rw [reads]; rfl)]
        · rw [(idle clear).1 (.inl docked)]
    refine ⟨fun locked => ?forced, fun seat clear docking dwells => ?seat, fun presence clear relatching dwells tok n claim known own => ?late⟩
    case forced =>
      obtain ⟨y, leveled, fault, answers⟩ := fell
      have e := answers (locked.elim .inr fun h => .inl h.1)
      obtain ⟨moves, stops⟩ := forceBay_stops leveled fault runs here.symm law none'
      exact ⟨fun moving => ⟨_, e, moves moving⟩, fun dwells => ⟨_, e, stops dwells⟩⟩
    case seat =>
      subst seat
      have seated : (s.input b).seat = true := event.elim (fun h => nomatch h.1) And.right
      obtain ⟨_, idle⟩ := (s.leveled b .seat false).seatFell_cases b
      refine ⟨_, exec_seatFalling working seated, ?_⟩
      rw [(idle clear).2 docking]
      exact undock_stops runs here.symm law none' dwells
    case late =>
      subst presence
      have present : (s.input b).presence = true := event.elim And.right fun h => nomatch h.1
      obtain ⟨_, idle⟩ := (s.leveled b .presence false).presenceFell_cases b
      refine ⟨_, exec_presenceFalling working present, ?_⟩
      rw [(idle clear).2.2 relatching]
      exact lateWithdrawal_stops runs here.symm law none' dwells claim known own

end Sys2Proof.Safety
end

section
/-! SUPPORT. Envelope: stuff bits, check words and the frames a receiver finds undamaged or damaged (R40, R181). -/

namespace Sys2Proof.Machine

/-! ### Stuff bits -/

/-- R181: a receiver takes out the stuff bits a sender has put in. -/
theorem unstuffFrom_stuffFrom (bits : List Bool) : ∀ (level : Bool) (run : Nat), run ≤ 5 →
    unstuffFrom level run (stuffFrom level run bits) = some bits := by
  induction bits with
  | nil =>
    intro level run _
    by_cases due : run = 5
    · simp [stuffFrom, unstuffFrom, due]
    · simp [stuffFrom, unstuffFrom, due]
  | cons b rest ih =>
    intro level run within
    by_cases due : run = 5
    · have back := ih b (if b = !level then 2 else 1) (by split <;> decide)
      simp [stuffFrom, unstuffFrom, due, back]
    · have back := ih b (if b = level then run + 1 else 1) (by split <;> omega)
      simp [stuffFrom, unstuffFrom, due, back]

/-- R181: a run of one level that reaches six finds a stuff bit missing. -/
theorem unstuffFrom_replicate (level : Bool) (after : List Bool) : ∀ (k run : Nat), 1 ≤ k → run ≤ 5 → 6 ≤ run + k →
    unstuffFrom level run (List.replicate k level ++ after) = none
  | 0, _, some', _, _ => nomatch some'
  | k + 1, run, _, within, six => by
    rw [List.replicate_succ, List.cons_append, unstuffFrom]
    by_cases due : run = 5
    · rw [if_pos due, if_pos rfl]
    · rw [if_neg due, if_pos rfl, unstuffFrom_replicate level after k (run + 1) (by omega) (by omega) (by omega)]
      rfl

/-- R181: six equal levels are found wherever they stand. -/
theorem unstuffFrom_six (six : Bool) (after before : List Bool) : ∀ (level : Bool) (run : Nat), run ≤ 5 →
    unstuffFrom level run (before ++ (List.replicate 6 six ++ after)) = none := by
  induction before with
  | nil =>
    intro level run within
    by_cases same : six = level
    · rw [same]
      exact unstuffFrom_replicate level after 6 run (by decide) within (by omega)
    · have rest := unstuffFrom_replicate six after 5 1 (by decide) (by decide) (by decide)
      rw [List.nil_append, List.replicate_succ, List.cons_append, unstuffFrom, if_neg same, if_neg same, rest]
      exact ite_self _
  | cons b rest ih =>
    intro level run within
    rw [List.cons_append, unstuffFrom]
    by_cases due : run = 5
    · rw [if_pos due, ih b 1 (by decide)]
      exact ite_self _
    · rw [if_neg due, ih b _ (by split <;> omega)]
      rfl

/-! ### Bytes and their bits -/

theorem byteBits_eq (b : Byte) : byteBits b = [b.getLsbD 7, b.getLsbD 6, b.getLsbD 5, b.getLsbD 4, b.getLsbD 3,
    b.getLsbD 2, b.getLsbD 1, b.getLsbD 0] := rfl

theorem byteOfBits_byteBits (b : Byte) : byteOfBits (byteBits b) = b := by
  revert b
  decide +kernel

theorem bytesOfBits_bitsOf (bytes : List Byte) : bytesOfBits (bitsOf bytes) = bytes := by
  induction bytes with
  | nil => rfl
  | cons b rest ih =>
    have first : bitsOf (b :: rest) = byteBits b ++ bitsOf rest := List.flatMap_cons
    have whole := byteOfBits_byteBits b
    rw [byteBits_eq] at whole
    rw [first, byteBits_eq]
    show byteOfBits _ :: bytesOfBits (bitsOf rest) = _
    rw [whole, ih]

theorem bitsOf_length (bytes : List Byte) : (bitsOf bytes).length = 8 * bytes.length := by
  induction bytes with
  | nil => rfl
  | cons b rest ih =>
    rw [bitsOf, List.flatMap_cons, List.length_append, ← bitsOf, ih, byteBits_eq, List.length_cons]
    exact Nat.add_comm _ _

theorem beNat_beBytes_two {n : Nat} (small : n < 65536) : beNat (beBytes 2 n) = n := by
  simp [beNat, beBytes]
  omega

/-! ### Frames -/

/-- R40, R181: what a receiver finds of bytes sent with a check word and stuff bits. -/
theorem damaged_sent (bytes : List Byte) (word : BitVec 16) :
    damaged (stuffFrom true 0 (false :: bitsOf (bytes ++ beBytes 2 word.toNat))) = false ↔
      envelopeSound bytes = true ∧ word = checkWord bytes := by
  have check : (beBytes 2 word.toNat).length = 2 := rfl
  have spelt : beNat (beBytes 2 word.toNat) = word.toNat := beNat_beBytes_two word.isLt
  have length : (bytes ++ beBytes 2 word.toNat).length - 2 = bytes.length := by
    rw [List.length_append, check, Nat.add_sub_cancel]
  have long : envelopeSound bytes = true → 7 ≤ bytes.length + 2 := by
    intro sound
    simp only [envelopeSound, Bool.and_eq_true, beq_iff_eq] at sound
    omega
  unfold damaged
  rw [unstuffFrom_stuffFrom _ true 0 (by decide)]
  dsimp only
  rw [bytesOfBits_bitsOf, bitsOf_length, length, List.take_left, field, List.drop_left, List.take_of_length_le (Nat.le_of_eq check), spelt,
    List.length_append, check]
  simp only [beq_self_eq_true, Bool.true_and, Bool.not_eq_false', Bool.and_eq_true, decide_eq_true_eq, beq_iff_eq, BitVec.toNat_inj]
  exact ⟨fun h => ⟨h.1.2, h.2⟩, fun h => ⟨⟨long h.1, h.1⟩, h.2⟩⟩

end Sys2Proof.Machine

namespace Sys2Proof.Safety

open Sys2Proof.Machine

/-- Settles O60: `damaged_sent` for what is sent with a check word and stuff bits, `unstuffFrom_six` for six equal levels. -/
theorem framesAreReadBackUndamagedAndDamageIsFound : Obligations.FramesAreReadBackUndamagedAndDamageIsFound := by
  refine ⟨fun bytes sound => ?_, fun bytes broken => ?_, fun bytes word other => ?_, fun before after level => ?_⟩
  · exact (damaged_sent bytes (checkWord bytes)).mpr ⟨sound, rfl⟩
  · rw [lineLevels, ← Bool.not_eq_false, damaged_sent, broken]
    exact fun h => nomatch h.1
  · rw [← Bool.not_eq_false, damaged_sent]
    exact fun h => other h.2
  · unfold damaged
    rw [List.append_assoc, unstuffFrom_six level after before true 0 (by decide)]

end Sys2Proof.Safety
end
